-- ==== Sys2Proof/Word.lean ====
section
/-! DEFINITION. The word and byte types (00_scope.md R12). `+` on words is add32 (R15), the bitwise
operators are those of `BitVec` (R14). Nothing here is signed. -/

namespace Sys2Proof

/-- A word: 32 bits, unsigned (00_scope.md R12). -/
abbrev Word := BitVec 32

/-- A byte: 8 bits, unsigned (00_scope.md R12). -/
abbrev Byte := BitVec 8

end Sys2Proof
end

