-- ==== Sys2Proof/Syntax.lean ====
section
/-! DEFINITION. The instructions: one constructor for each row of spec/opcode_table.json. Indices carry
their range in their type, so the coordinates that never occur (30_encoding.md R112) have no term. -/

namespace Sys2Proof

/-- The Algorithm Selector (10_state.md R36). -/
inductive Alg where
  | md5
  | sha1
deriving DecidableEq, Repr, Inhabited

/-- Commands (30_encoding.md R102 to R104), the four cases of ABSORB (40_absorb_padding.md R145 to
R148) and the micro-operations of the sequencer (30_encoding.md R108). -/
inductive Instr where
  /-- INIT alg (R130). -/
  | init (a : Alg)
  /-- ABSORB block (R131); `len` is the block's length (R100). -/
  | absorb (block : List Byte)
  /-- ABORT (R287). -/
  | abort
  /-- ABSORB.FULL: a block of 64 bytes (R145). -/
  | absorbFull (block : List Byte)
  /-- ABSORB.FINAL: a block of 0 to 55 bytes in AWAITING_DATA (R146). -/
  | absorbFinal (block : List Byte)
  /-- ABSORB.SPILL: a block of 56 to 63 bytes in AWAITING_DATA (R147). -/
  | absorbSpill (block : List Byte)
  /-- ABSORB.LENGTH: the empty block in AWAITING_LENGTH_BLOCK (R148). -/
  | absorbLength
  /-- COUNT, stage 0; `a` is the coordinate's alg bit (R133). -/
  | count (a : Alg)
  /-- PAD, stage 1; `a` is the coordinate's alg bit (R135). -/
  | pad (a : Alg)
  /-- LOAD.MD5, word index j (R161). -/
  | loadMd5 (j : Fin 16)
  /-- LOAD.SHA1, word index j (R162). -/
  | loadSha1 (j : Fin 16)
  /-- EXPAND.SHA1, schedule index t = 16 + r (R164). -/
  | expandSha1 (r : Fin 64)
  /-- MD5.F, round i = r (R186). -/
  | md5F (r : Fin 16)
  /-- MD5.G, round i = 16 + r (R187). -/
  | md5G (r : Fin 16)
  /-- MD5.H, round i = 32 + r (R188). -/
  | md5H (r : Fin 16)
  /-- MD5.I, round i = 48 + r (R189). -/
  | md5I (r : Fin 16)
  /-- SHA1.CH, round i = r (R213). -/
  | sha1Ch (r : Fin 20)
  /-- SHA1.PAR1, round i = 20 + r (R214). -/
  | sha1Par1 (r : Fin 20)
  /-- SHA1.MAJ, round i = 40 + r (R215). -/
  | sha1Maj (r : Fin 20)
  /-- SHA1.PAR2, round i = 60 + r (R216). -/
  | sha1Par2 (r : Fin 20)
  /-- FEEDFWD.MD5, register index r (R192). -/
  | feedfwdMd5 (r : Fin 4)
  /-- FEEDFWD.SHA1, register index r (R219). -/
  | feedfwdSha1 (r : Fin 5)
  /-- FORMAT.MD5, register index r (R241). -/
  | formatMd5 (r : Fin 4)
  /-- FORMAT.SHA1, register index r (R242). -/
  | formatSha1 (r : Fin 5)
deriving DecidableEq, Repr

end Sys2Proof
end

