-- ==== Sys2Proof/Config.lean ====
section
/-! DEFINITION. What an implementation fixes and what the spec leaves open: the fixed parameters
(00_scope.md R9), the open number of instances (R10) and the free values. An `opaque` constant here has
no body: nothing can be proved about its value. -/

namespace Sys2Proof.Config

/-- `BLOCK_BYTES` (00_scope.md R9). -/
def blockBytes : Nat := 64

/-- `LEN_OFFSET` (00_scope.md R9): the offset of the length field in its block. -/
def lenOffset : Nat := 56

/-- `LEN_BYTES` (00_scope.md R9): the size of the length field. -/
def lenBytes : Nat := 8

/-- The largest `len` the 7-bit field can carry (`CMD_LEN_BITS`, 00_scope.md R10, 30_encoding.md R103). -/
def maxLen : Nat := 127

/-- `NREG` (00_scope.md R9). -/
def nreg : Alg → Nat
  | .md5 => 4
  | .sha1 => 5

/-- `NROUND` (00_scope.md R9). -/
def nround : Alg → Nat
  | .md5 => 64
  | .sha1 => 80

/-- `DIGEST_BYTES` (00_scope.md R9). -/
def digestBytes : Alg → Nat
  | .md5 => 16
  | .sha1 => 20

/-- `HEX_CHARS` (00_scope.md R9). -/
def hexChars : Alg → Nat
  | .md5 => 32
  | .sha1 => 40

/-- `N_INSTANCES - 1` (00_scope.md R10, 92_eei_decisions.md D17): OPEN, so `N_INSTANCES` is any number,
at least 1. Log 8. -/
opaque moreInstances : Nat

/-- Free value: `alg` after fault entry (60_exceptions.md R290, 93 U9), by instance and draw. Log 4. -/
opaque freeAlg (inst draw : Nat) : Alg

/-- Free value: `bitcount` after fault entry (60_exceptions.md R290, 93 U9), by instance and draw. Log 4. -/
opaque freeCount (inst draw : Nat) : BitVec 64

/-- Free values: the words that the spec leaves unspecified (registers after fault entry, 93 U9; schedule,
accumulators and temporaries after an ABSORB, 93 U10), by instance, draw and place. Log 4, 5. -/
opaque freeWord (inst draw place : Nat) : Word

/-- Free values: the bytes of the working buffer after an ABSORB (10_state.md R39, 93 U10), by
instance, draw and address. Log 5. -/
opaque freeByte (inst draw place : Nat) : Byte

/-- Free value: `STATUS.ALG` in IDLE and FAULTED (10_state.md R48, 93 U11), by instance and draw. Log 6. -/
opaque freeStatusAlg (inst draw : Nat) : Alg

end Sys2Proof.Config
end

