-- ==== Sys2Proof/Machine/State.lean ====
section
/-! DEFINITION. The state of the machine as plain data (10_state.md R30), the reasons a step can stop, and
the state after reset (10_state.md R50, 70_reset_and_hazards.md R320). -/

namespace Sys2Proof.Machine

/-- `phase` (10_state.md R37). -/
inductive Phase where
  /-- No computation exists. -/
  | idle
  /-- A computation exists, the byte 0x80 has not been emitted. -/
  | awaitingData
  /-- The byte 0x80 has been emitted in a block that had no room for the length field. -/
  | awaitingLengthBlock
  /-- The length field has been compressed, the digest is stored. -/
  | done
  /-- The computation was aborted. -/
  | faulted
deriving DecidableEq, Repr, Inhabited

/-- The engine's fault codes (60_exceptions.md R281), `none` first. -/
inductive FaultCode where
  | none
  | chunkTooLong
  | absorbAfterDone
  | nonemptyLengthBlock
  | noComputation
  | lengthOverflow
  | upstreamAbort
  | badCommand
deriving DecidableEq, Repr, Inhabited

/-- The chaining registers with the algorithm they belong to (10_state.md R31, R36): register E exists
only for SHA1 (R32). Log 16. -/
inductive Regs where
  /-- `alg = MD5`: H.A, H.B, H.C, H.D. -/
  | md5 (A B C D : Word)
  /-- `alg = SHA1`: H.A, H.B, H.C, H.D, H.E. -/
  | sha1 (A B C D E : Word)
deriving DecidableEq, Repr, Inhabited

/-- The accumulators a, b, c, d, e (10_state.md R41). -/
structure Acc where
  a : Word
  b : Word
  c : Word
  d : Word
  e : Word
deriving DecidableEq, Repr, Inhabited

/-- A 64-byte block (10_state.md R39). -/
abbrev Block := Vector Byte 64

/-- A sparse store: (address, datum) pairs with strictly rising addresses. An address that is not listed
reads as absent. `Memory Byte` is a list of `Host.Cell`. Log 23. -/
abbrev Memory (α : Type) := List (Nat × α)

/-- The working state of an ABSORB, live only inside it (10_state.md R30). -/
structure Work where
  /-- The input block (20_memory.md R70). -/
  block : List Byte
  /-- The working buffer (10_state.md R39). -/
  buf : Block
  /-- The word schedule; MD5 uses words 0 to 15 (10_state.md R40). -/
  w : Vector Word 80
  /-- The accumulators (10_state.md R41). -/
  acc : Acc
  /-- The one-round temporary f (10_state.md R41). -/
  f : Word
  /-- The one-round temporary temp (10_state.md R41). -/
  temp : Word
  /-- The variable `next` of 40_absorb_padding.md R131. -/
  next : Phase
deriving DecidableEq, Repr

/-- One engine instance (10_state.md R30). -/
structure Engine where
  /-- The index of the instance (60_exceptions.md R299). The model's own field, log 7. -/
  inst : Nat
  phase : Phase
  /-- The recorded fault code (10_state.md R44). -/
  fault : FaultCode
  /-- The chaining registers and, as their constructor, `alg` (10_state.md R31, R36). -/
  h : Regs
  /-- The total-bits-processed counter (10_state.md R42). -/
  bitcount : BitVec 64
  /-- The digest store (10_state.md R43). -/
  digest : Memory Byte
  /-- The hex store (10_state.md R43). -/
  hex : Memory Char
  work : Work
  /-- The sequencer coordinate, absent outside an ABSORB (10_state.md R45). -/
  useq : Option (BitVec 11)
  /-- Ghost state: the buffers compressed since INIT (60_exceptions.md R312). -/
  trace : List Block
  /-- How many times free values have been drawn. The model's own field, log 7. -/
  draws : Nat
deriving DecidableEq, Repr

/-- What the host can send: a command transaction to an instance (30_encoding.md R100) or the hardware
reset event (70_reset_and_hazards.md R320). Log 9, 20. -/
inductive Input where
  | command (inst : Nat) (word : BitVec 16) (payload : List Byte)
  | reset
deriving DecidableEq, Repr

/-- The CORE: its instances 0 to N_INSTANCES - 1 (60_exceptions.md R299), split at the one that the
latest transaction addressed, and the inputs not yet taken. Log 8, 9. -/
structure State where
  /-- The instances of smaller index, in rising order. -/
  below : List Engine
  /-- The addressed instance; its index is the length of `below`. -/
  eng : Engine
  /-- The instances of larger index, in rising order. -/
  above : List Engine
  /-- The inputs the host has issued and the machine has not taken, oldest first. -/
  pending : List Input
deriving DecidableEq, Repr

/-- Why the machine stops with a fault. The engine's own faults (60_exceptions.md R281) are no stops: they
are next states in phase FAULTED. -/
inductive Fault where
  /-- FEEDFWD.SHA1 or FORMAT.SHA1 at index 4 on MD5 registers: register E does not exist there
  (10_state.md R32). The sequencer never produces it (30_encoding.md R112). Safe. Log 15. -/
  | noRegisterE
deriving DecidableEq, Repr

/-- Why the machine refuses a step. -/
inductive Refusal where
  /-- Raised by `exec` for an instruction that has no meaning yet. Safe. -/
  | notModelled (mnemonic : String)
  /-- Raised by `step` for a transaction to an instance that does not exist (60_exceptions.md R299).
  Safe. Log 19. -/
  | noSuchInstance (inst : Nat)
  /-- Raised by `step` for a transaction whose payload length differs from its word's: it cannot be formed
  (30_encoding.md R100). Safe. Log 19. -/
  | malformedTransaction
  /-- Raised by `step` for a sequencer coordinate that never occurs (30_encoding.md R112). Safe. Log 19. -/
  | noSuchCoordinate
deriving DecidableEq, Repr

/-- The working state after reset. The spec leaves it unspecified (10_state.md R50); DESIGN CHOICE zero,
log 3. -/
def Work.reset : Work where
  block := []
  buf := Vector.replicate 64 0#8
  w := Vector.replicate 80 0#32
  acc := ⟨0#32, 0#32, 0#32, 0#32, 0#32⟩
  f := 0#32
  temp := 0#32
  next := .idle

/-- Instance `k` after hardware reset (10_state.md R50). `alg`, `H` and `bitcount` are unspecified there;
DESIGN CHOICE MD5 and zero, log 1, 2. -/
def Engine.reset (k : Nat) : Engine where
  inst := k
  phase := .idle
  fault := .none
  h := .md5 0#32 0#32 0#32 0#32
  bitcount := 0#64
  digest := []
  hex := []
  work := Work.reset
  useq := none
  trace := []
  draws := 0

/-- The CORE after hardware reset with `more + 1` instances (10_state.md R50, 92_eei_decisions.md D17). -/
def State.resetWith (more : Nat) : State where
  below := []
  eng := Engine.reset 0
  above := (List.range more).map fun k => Engine.reset (k + 1)
  pending := []

/-- The machine right after reset (70_reset_and_hazards.md R320), for the open number of instances. -/
def State.reset : State := State.resetWith Config.moreInstances

end Sys2Proof.Machine
end

