-- ==== Sys2Proof/Machine/Flags.lean ====
section
/-! DEFINITION. The flags of the engine: views of the phase (10_state.md R38). There are no others: no
carry, no overflow, no zero flag. -/

namespace Sys2Proof.Machine

/-- `pad_pending`, "non-zero padding still required" (10_state.md R38). -/
def Phase.padPending : Phase → Bool
  | .awaitingData => true
  | .idle | .awaitingLengthBlock | .done | .faulted => false

/-- `fully_padded` (10_state.md R38). -/
def Phase.fullyPadded : Phase → Bool
  | .done => true
  | .idle | .awaitingData | .awaitingLengthBlock | .faulted => false

/-- A computation exists: `alg`, `H` and `bitcount` are live (10_state.md R30, R48). -/
def Phase.live : Phase → Bool
  | .awaitingData | .awaitingLengthBlock | .done => true
  | .idle | .faulted => false

/-- The numeric code of a phase (10_state.md R37). -/
def Phase.code : Phase → BitVec 3
  | .idle => 0#3
  | .awaitingData => 1#3
  | .awaitingLengthBlock => 2#3
  | .done => 3#3
  | .faulted => 4#3

/-- The numeric code of a fault (60_exceptions.md R281). -/
def FaultCode.code : FaultCode → BitVec 3
  | .none => 0#3
  | .chunkTooLong => 1#3
  | .absorbAfterDone => 2#3
  | .nonemptyLengthBlock => 3#3
  | .noComputation => 4#3
  | .lengthOverflow => 5#3
  | .upstreamAbort => 6#3
  | .badCommand => 7#3

end Sys2Proof.Machine
end

