-- ==== Sys2Proof/Machine/Tables.lean ====
section
/-! DEFINITION. The read-only tables of the engine (10_state.md R46): the MD5 sine constants and rotation
amounts, the SHA-1 round constants, the initial register values. -/

namespace Sys2Proof.Machine

/-- The literals of `CONST[0..63]` (42_md5_compression.md R183), sixteen rounds a list. -/
def constTable : List Word :=
  [0xd76aa478#32, 0xe8c7b756#32, 0x242070db#32, 0xc1bdceee#32,
   0xf57c0faf#32, 0x4787c62a#32, 0xa8304613#32, 0xfd469501#32,
   0x698098d8#32, 0x8b44f7af#32, 0xffff5bb1#32, 0x895cd7be#32,
   0x6b901122#32, 0xfd987193#32, 0xa679438e#32, 0x49b40821#32] ++
  [0xf61e2562#32, 0xc040b340#32, 0x265e5a51#32, 0xe9b6c7aa#32,
   0xd62f105d#32, 0x02441453#32, 0xd8a1e681#32, 0xe7d3fbc8#32,
   0x21e1cde6#32, 0xc33707d6#32, 0xf4d50d87#32, 0x455a14ed#32,
   0xa9e3e905#32, 0xfcefa3f8#32, 0x676f02d9#32, 0x8d2a4c8a#32] ++
  [0xfffa3942#32, 0x8771f681#32, 0x6d9d6122#32, 0xfde5380c#32,
   0xa4beea44#32, 0x4bdecfa9#32, 0xf6bb4b60#32, 0xbebfbc70#32,
   0x289b7ec6#32, 0xeaa127fa#32, 0xd4ef3085#32, 0x04881d05#32,
   0xd9d4d039#32, 0xe6db99e5#32, 0x1fa27cf8#32, 0xc4ac5665#32] ++
  [0xf4292244#32, 0x432aff97#32, 0xab9423a7#32, 0xfc93a039#32,
   0x655b59c3#32, 0x8f0ccc92#32, 0xffeff47d#32, 0x85845dd1#32,
   0x6fa87e4f#32, 0xfe2ce6e0#32, 0xa3014314#32, 0x4e0811a1#32,
   0xf7537e82#32, 0xbd3af235#32, 0x2ad7d2bb#32, 0xeb86d391#32]

/-- `CONST[i]` (42_md5_compression.md R183). -/
def md5Const (i : Nat) : Word := constTable.getD i 0#32

/-- `S[g][k]`, the four rotation amounts of each group of 16 rounds (42_md5_compression.md R184). -/
def shiftTable : List (List Nat) :=
  [[7, 12, 17, 22], [5, 9, 14, 20], [4, 11, 16, 23], [6, 10, 15, 21]]

/-- `SHIFT[i] = S[i div 16][i mod 4]` (42_md5_compression.md R184). -/
def md5Shift (i : Nat) : Nat := (shiftTable.getD (i / 16) []).getD (i % 4) 0

/-- The SHA-1 round constants (43_sha1_compression.md R212). -/
def kTable : List Word := [0x5a827999#32, 0x6ed9eba1#32, 0x8f1bbcdc#32, 0xca62c1d6#32]

/-- `K[g]` (43_sha1_compression.md R212). -/
def sha1K (g : Nat) : Word := kTable.getD g 0#32

/-- The initial register values (10_state.md R34, R35). -/
def Regs.initial : Alg → Regs
  | .md5 => .md5 0x67452301#32 0xefcdab89#32 0x98badcfe#32 0x10325476#32
  | .sha1 => .sha1 0x67452301#32 0xefcdab89#32 0x98badcfe#32 0x10325476#32 0xc3d2e1f0#32

end Sys2Proof.Machine
end

