-- ==== Sys2Proof/Machine/Ops.lean ====
section
/-! DEFINITION. The named operations: rotation and byte order (00_scope.md R13, R16), the sparse stores,
the registers, the instances, fault entry (60_exceptions.md R290) and the admission of an ABSORB
(40_absorb_padding.md R132). -/

namespace Sys2Proof.Machine

/-- What a meaning answers. -/
abbrev Result := Host.Outcome State Fault Refusal

/-! ## Words and bytes -/

/-- `rotl32(x, n)`: bit k of x moves to bit (k + n) mod 32 (00_scope.md R16). -/
def rotl32 (x : Word) (n : Nat) : Word := x.rotateLeft n

/-- `le32`: the first byte is the least significant (00_scope.md R13). -/
def le32 (b0 b1 b2 b3 : Byte) : Word := b3 ++ b2 ++ b1 ++ b0

/-- `be32`: the first byte is the most significant (00_scope.md R13). -/
def be32 (b0 b1 b2 b3 : Byte) : Word := b0 ++ b1 ++ b2 ++ b3

/-- Byte `q` of a value, byte 0 the least significant: `(v >> 8q) & 0xFF` (00_scope.md R13). -/
def byteOf {n : Nat} (v : BitVec n) (q : Nat) : Byte := v.extractLsb' (8 * q) 8

/-- `le_bytes_N(v)` (00_scope.md R13). -/
def leBytes {n : Nat} (v : BitVec n) (count : Nat) : List Byte := (List.range count).map (byteOf v)

/-- `be_bytes_N(v)` (00_scope.md R13). -/
def beBytes {n : Nat} (v : BitVec n) (count : Nat) : List Byte :=
  (List.range count).map fun j => byteOf v (count - 1 - j)

/-- The bytes of a value in the algorithm's native byte order (20_memory.md R71, R72, R73;
44_digest_formatter.md R243). -/
def nativeBytes {n : Nat} : Alg → BitVec n → Nat → List Byte
  | .md5, v, count => leBytes v count
  | .sha1, v, count => beBytes v count

/-- The 64-byte buffer whose byte k is byte k of a list. -/
def blockOfList (bytes : List Byte) : Block := Vector.ofFn fun k : Fin 64 => bytes.getD k 0#8

/-! ## Sparse stores -/

/-- Read of one address: absent unless listed (10_state.md R43). -/
def Memory.read {α : Type} : Memory α → Nat → Option α
  | [], _ => none
  | (k, v) :: rest, a => if k = a then some v else Memory.read rest a

/-- Write of one address, keeping the addresses strictly rising. -/
def Memory.write {α : Type} : Memory α → Nat → α → Memory α
  | [], a, v => [(a, v)]
  | (k, x) :: rest, a, v =>
    if a < k then (a, v) :: (k, x) :: rest
    else if a = k then (a, v) :: rest
    else (k, x) :: Memory.write rest a v

/-- The canonical form: strictly rising addresses. -/
def Memory.wf {α : Type} : Memory α → Bool
  | [] => true
  | [_] => true
  | (k, _) :: (l, y) :: rest => decide (k < l) && Memory.wf ((l, y) :: rest)

/-- Writes of consecutive addresses from `a` on. -/
def Memory.writeList {α : Type} (m : Memory α) (a : Nat) : List α → Memory α
  | [] => m
  | v :: rest => Memory.writeList (m.write a v) (a + 1) rest

/-- The store that holds a list at addresses 0, 1, …. -/
def Memory.ofList {α : Type} (values : List α) : Memory α := Memory.writeList [] 0 values

/-! ## Registers -/

/-- `alg` (10_state.md R36). -/
def Regs.alg : Regs → Alg
  | .md5 .. => .md5
  | .sha1 .. => .sha1

/-- The registers in the order A, B, C, D, (E) (10_state.md R31, R32). -/
def Regs.words : Regs → List Word
  | .md5 A B C D => [A, B, C, D]
  | .sha1 A B C D E => [A, B, C, D, E]

/-- Read of `H[r]`: absent where the register does not exist (10_state.md R31, R32). -/
def Regs.get (h : Regs) (r : Nat) : Option Word := h.words[r]?

/-- `H[r] <- add32(H[r], v)`: absent where the register does not exist (10_state.md R31, R32). -/
def Regs.add : Regs → Nat → Word → Option Regs
  | .md5 A B C D, 0, v => some (.md5 (A + v) B C D)
  | .md5 A B C D, 1, v => some (.md5 A (B + v) C D)
  | .md5 A B C D, 2, v => some (.md5 A B (C + v) D)
  | .md5 A B C D, 3, v => some (.md5 A B C (D + v))
  | .md5 .., _, _ => none
  | .sha1 A B C D E, 0, v => some (.sha1 (A + v) B C D E)
  | .sha1 A B C D E, 1, v => some (.sha1 A (B + v) C D E)
  | .sha1 A B C D E, 2, v => some (.sha1 A B (C + v) D E)
  | .sha1 A B C D E, 3, v => some (.sha1 A B C (D + v) E)
  | .sha1 A B C D E, 4, v => some (.sha1 A B C D (E + v))
  | .sha1 .., _, _ => none

/-- The accumulator of the same letter as register r (42_md5_compression.md R192,
43_sha1_compression.md R219). -/
def Acc.get (x : Acc) : Nat → Word
  | 0 => x.a
  | 1 => x.b
  | 2 => x.c
  | 3 => x.d
  | _ => x.e

/-- The seed: the accumulators take the registers that exist (42_md5_compression.md R181,
43_sha1_compression.md R211). -/
def Acc.seed (x : Acc) : Regs → Acc
  | .md5 A B C D => ⟨A, B, C, D, x.e⟩
  | .sha1 A B C D E => ⟨A, B, C, D, E⟩

/-! ## Free values -/

/-- The registers after fault entry: any value (60_exceptions.md R290, 93 U9). Log 4. -/
def Regs.free (inst draw : Nat) : Regs :=
  match Config.freeAlg inst draw with
  | .md5 => .md5 (Config.freeWord inst draw 0) (Config.freeWord inst draw 1)
      (Config.freeWord inst draw 2) (Config.freeWord inst draw 3)
  | .sha1 => .sha1 (Config.freeWord inst draw 0) (Config.freeWord inst draw 1)
      (Config.freeWord inst draw 2) (Config.freeWord inst draw 3) (Config.freeWord inst draw 4)

/-- The working state after an ABSORB: any value (10_state.md R39 to R41, 93 U10). Log 5. -/
def Work.free (inst draw : Nat) : Work where
  block := []
  buf := Vector.ofFn fun k : Fin 64 => Config.freeByte inst draw k
  w := Vector.ofFn fun t : Fin 80 => Config.freeWord inst draw (t + 7)
  acc := ⟨Config.freeWord inst draw 0, Config.freeWord inst draw 1, Config.freeWord inst draw 2,
    Config.freeWord inst draw 3, Config.freeWord inst draw 4⟩
  f := Config.freeWord inst draw 5
  temp := Config.freeWord inst draw 6
  next := .idle

/-! ## Instances -/

/-- All instances, in the order of their indices (60_exceptions.md R299). -/
def State.engines (s : State) : List Engine := s.below ++ s.eng :: s.above

/-- The machine with instance `k` addressed, if there is one (60_exceptions.md R299). -/
def State.select (s : State) (k : Nat) : Option State :=
  match s.engines.drop k with
  | [] => none
  | e :: rest => some { s with below := s.engines.take k, eng := e, above := rest }

/-- The addressed instance replaced. -/
def State.withEng (s : State) (e : Engine) : State := { s with eng := e }

/-! ## Fault entry -/

/-- `raise c` (60_exceptions.md R290): phase FAULTED, the code recorded, digest and hex absent; `alg`,
`H` and `bitcount` become unspecified (free values, log 4); nothing else changes. -/
def Engine.raise (c : FaultCode) (e : Engine) : Engine :=
  { e with
    phase := .faulted
    fault := c
    digest := []
    hex := []
    h := Regs.free e.inst e.draws
    bitcount := Config.freeCount e.inst e.draws
    draws := e.draws + 1 }

/-- A reserved command word: fault BAD_COMMAND, ignored in FAULTED (60_exceptions.md R286, R291). -/
def Engine.badCommand (e : Engine) : Engine :=
  match e.phase with
  | .faulted => e
  | .idle | .awaitingData | .awaitingLengthBlock | .done => e.raise .badCommand

/-- INIT (40_absorb_padding.md R130), the return from a fault (60_exceptions.md R292): a fresh computation,
whatever the phase. -/
def Engine.create (a : Alg) (e : Engine) : Engine :=
  { e with
    h := Regs.initial a
    bitcount := 0#64
    phase := .awaitingData
    fault := .none
    digest := []
    hex := []
    trace := [] }

/-! ## Admission of an ABSORB -/

/-- The verdict of the admission checks. -/
inductive Admission where
  /-- The command is ignored (60_exceptions.md R291). -/
  | ignored
  /-- A check raises. -/
  | raises (c : FaultCode)
  /-- No check applies. -/
  | admitted
deriving DecidableEq, Repr

/-- The admission checks of an ABSORB of `n` bytes, in their order (40_absorb_padding.md R132,
60_exceptions.md R293). -/
def Engine.admission (e : Engine) (n : Nat) : Admission :=
  if e.phase = .faulted then .ignored
  else if e.phase = .idle then .raises .noComputation
  else if 64 < n then .raises .chunkTooLong
  else if e.phase = .done then .raises .absorbAfterDone
  else if e.phase = .awaitingLengthBlock ∧ 0 < n then .raises .nonemptyLengthBlock
  else if 2 ^ 64 - 1 < e.bitcount.toNat + 8 * n then .raises .lengthOverflow
  else .admitted

/-- An ABSORB of `n` bytes: `body` runs if it is admitted, otherwise the first check that applies decides and
nothing of `body` happens (40_absorb_padding.md R132, 60_exceptions.md R294). -/
def Engine.gated (e : Engine) (n : Nat) (body : Engine → Engine) : Engine :=
  match e.admission n with
  | .ignored => e
  | .raises c => e.raise c
  | .admitted => body e

/-! ## Hardware reset -/

/-- An instance after a hardware reset event (70_reset_and_hazards.md R320, R323). Its index is kept, and so
is the model's own draw counter (log 20). -/
def Engine.hardReset (e : Engine) : Engine := { Engine.reset e.inst with draws := e.draws }

/-- The hardware reset event: every instance is reset (70_reset_and_hazards.md R320). -/
def State.hardReset (s : State) : State :=
  { s with
    below := s.below.map Engine.hardReset
    eng := s.eng.hardReset
    above := s.above.map Engine.hardReset }

end Sys2Proof.Machine
end

