-- ==== Sys2Proof/Machine/Operands.lean ====
section
/-! DEFINITION. How each operand of a micro-operation is assembled (30_encoding.md R109). Nothing is
sign-extended and nothing is scaled. -/

namespace Sys2Proof.Machine

/-- The content of the buffer before the zero fill: the block bytes, then `0x80` when `pad_pending`
(40_absorb_padding.md R136). Its length is "content so far". -/
def padContent (block : List Byte) (padPending : Bool) : List Byte :=
  if padPending then block ++ [0x80#8] else block

/-- `length_field(alg, L)` (40_absorb_padding.md R138; 30_encoding.md R107). -/
def lengthField (a : Alg) (count : BitVec 64) : List Byte := nativeBytes a count Config.lenBytes

/-- `W[j]` of LOAD.MD5: four buffer bytes at offset 4j, little-endian (41_block_load_schedule.md R161). -/
def md5Word (buf : Block) (j : Fin 16) : Word :=
  le32 buf[4 * j.val] buf[4 * j.val + 1] buf[4 * j.val + 2] buf[4 * j.val + 3]

/-- `W[j]` of LOAD.SHA1: four buffer bytes at offset 4j, big-endian (41_block_load_schedule.md R162). -/
def sha1Word (buf : Block) (j : Fin 16) : Word :=
  be32 buf[4 * j.val] buf[4 * j.val + 1] buf[4 * j.val + 2] buf[4 * j.val + 3]

/-- `W[t]` of EXPAND.SHA1, t = 16 + r, from `W[t-3]`, `W[t-8]`, `W[t-14]`, `W[t-16]`
(41_block_load_schedule.md R164). -/
def expandWord (w : Vector Word 80) (r : Fin 64) : Word :=
  rotl32 (w[r.val + 13] ^^^ w[r.val + 8] ^^^ w[r.val + 2] ^^^ w[r.val]) 1

/-- The schedule index g of MD5 round i (42_md5_compression.md R185). -/
def md5Index (i : Nat) : Fin 16 :=
  if i < 16 then Fin.ofNat 16 i
  else if i < 32 then Fin.ofNat 16 (5 * i + 1)
  else if i < 48 then Fin.ofNat 16 (3 * i + 5)
  else Fin.ofNat 16 (7 * i)

/-- The schedule word an MD5 round reads from the 80-word schedule store (10_state.md R40). -/
def Work.md5ScheduleWord (k : Work) (g : Fin 16) : Word := k.w[g.val]

/-- The schedule word SHA-1 round i reads (43_sha1_compression.md R217). -/
def Work.sha1ScheduleWord (k : Work) (i : Fin 80) : Word := k.w[i.val]

end Sys2Proof.Machine
end

