-- ==== Sys2Proof/Machine/Format.lean ====
section
/-! DEFINITION. The digest formatter (44_digest_formatter.md): serialisation of the registers in the native
byte order, the lowercase hex rendering, and the micro-operations FORMAT.MD5 and FORMAT.SHA1. -/

namespace Sys2Proof.Machine

/-- `HEXDIGIT` (44_digest_formatter.md R244). -/
def hexDigits : List Char :=
  ['0', '1', '2', '3', '4', '5', '6', '7', '8', '9', 'a', 'b', 'c', 'd', 'e', 'f']

/-- `HEXDIGIT[v]` (44_digest_formatter.md R244). -/
def hexDigit (v : BitVec 4) : Char := hexDigits.getD v.toNat '0'

/-- The two characters of a byte, high nibble first (44_digest_formatter.md R244). -/
def hexOfByte (b : Byte) : List Char := [hexDigit (b.extractLsb' 4 4), hexDigit (b.extractLsb' 0 4)]

/-- `hexstr(digest)` (44_digest_formatter.md R244). -/
def hexstr (digest : List Byte) : List Char := digest.flatMap hexOfByte

/-- `serialize(alg, H)` (44_digest_formatter.md R241, R242, R243). -/
def serialize (h : Regs) : List Byte := h.words.flatMap fun v => nativeBytes h.alg v 4

/-- The four digest bytes of register r stored at 4r and their eight characters at 8r
(44_digest_formatter.md R241, R242, R244). Log 14. -/
def Engine.storeDigest (e : Engine) (r : Nat) (bytes : List Byte) : Engine :=
  { e with
    digest := e.digest.writeList (4 * r) bytes
    hex := e.hex.writeList (8 * r) (hexstr bytes) }

/-- FORMAT.MD5: register r, least significant byte first (44_digest_formatter.md R241). Registers A to D
exist for either algorithm. -/
def execFormatMd5 (r : Fin 4) (s : State) : Result :=
  match s.eng.h.get r.val with
  | some v => .next (s.withEng (s.eng.storeDigest r.val (leBytes v 4)))
  | none => .fault .noRegisterE

/-- FORMAT.SHA1: register r, most significant byte first (44_digest_formatter.md R242). Register E does not
exist on MD5 registers (10_state.md R32; log 15). -/
def execFormatSha1 (r : Fin 5) (s : State) : Result :=
  match s.eng.h.get r.val with
  | some v => .next (s.withEng (s.eng.storeDigest r.val (beBytes v 4)))
  | none => .fault .noRegisterE

end Sys2Proof.Machine
end

