-- ==== Sys2Proof/Machine/Load.lean ====
section
/-! DEFINITION. Step 4 of ABSORB: the word load and the SHA-1 schedule expander
(41_block_load_schedule.md R160 to R164), as functions of the buffer and as micro-operations. -/

namespace Sys2Proof.Machine

/-- `LOAD(MD5, buf)`: the 16 words (41_block_load_schedule.md R161, R163). -/
def loadedMd5 (buf : Block) : Vector Word 16 := Vector.ofFn (md5Word buf)

/-- One step of the expansion: `W[16 + r]` written (41_block_load_schedule.md R164). -/
def expandStep (w : Vector Word 80) (r : Fin 64) : Vector Word 80 :=
  w.set (16 + r.val) (expandWord w r)

/-- The 80-word store after the 16 loads of SHA-1, words 16 to 79 still to be written
(41_block_load_schedule.md R162). -/
def loadedSha1 (buf : Block) : Vector Word 80 :=
  Vector.ofFn fun t : Fin 80 => if h : t.val < 16 then sha1Word buf ⟨t.val, h⟩ else 0#32

/-- `LOAD(SHA1, buf)` followed by the expansion, t ascending (41_block_load_schedule.md R162, R164). -/
def scheduleSha1 (buf : Block) : Vector Word 80 := (List.finRange 64).foldl expandStep (loadedSha1 buf)

/-- `W[j] <- v` in the schedule store (10_state.md R40). -/
def Engine.setWord (e : Engine) (j : Fin 16) (v : Word) : Engine :=
  { e with work := { e.work with w := e.work.w.set j.val v } }

/-- LOAD.MD5 (41_block_load_schedule.md R161). -/
def execLoadMd5 (j : Fin 16) (s : State) : Result :=
  .next (s.withEng (s.eng.setWord j (md5Word s.eng.work.buf j)))

/-- LOAD.SHA1 (41_block_load_schedule.md R162). -/
def execLoadSha1 (j : Fin 16) (s : State) : Result :=
  .next (s.withEng (s.eng.setWord j (sha1Word s.eng.work.buf j)))

/-- EXPAND.SHA1 (41_block_load_schedule.md R164). -/
def execExpandSha1 (r : Fin 64) (s : State) : Result :=
  .next (s.withEng { s.eng with work := { s.eng.work with w := expandStep s.eng.work.w r } })

end Sys2Proof.Machine
end

