-- ==== Sys2Proof/Machine/Md5.lean ====
section
/-! DEFINITION. The MD5 compression engine (42_md5_compression.md): the four round functions, the datapath,
the whole compression, and the micro-operations MD5.F, MD5.G, MD5.H, MD5.I, FEEDFWD.MD5. -/

namespace Sys2Proof.Machine

/-- The function of MD5.F (42_md5_compression.md R186). -/
def md5FnF (b c d : Word) : Word := (b &&& c) ||| (~~~b &&& d)

/-- The function of MD5.G (42_md5_compression.md R187). -/
def md5FnG (b c d : Word) : Word := (d &&& b) ||| (~~~d &&& c)

/-- The function of MD5.H (42_md5_compression.md R188). -/
def md5FnH (b c d : Word) : Word := b ^^^ c ^^^ d

/-- The function of MD5.I (42_md5_compression.md R189). -/
def md5FnI (b c d : Word) : Word := c ^^^ (b ||| ~~~d)

/-- The rotate-and-add datapath of round i with function value f and schedule word w
(42_md5_compression.md R190). -/
def md5Datapath (i : Nat) (f w : Word) (x : Acc) : Acc :=
  let sum := f + x.a + md5Const i + w
  { x with a := x.d, b := x.b + rotl32 sum (md5Shift i), c := x.b, d := x.c }

/-- The function value of round i, by the range i falls in (42_md5_compression.md R191). -/
def md5Fn (i : Nat) (x : Acc) : Word :=
  if i < 16 then md5FnF x.b x.c x.d
  else if i < 32 then md5FnG x.b x.c x.d
  else if i < 48 then md5FnH x.b x.c x.d
  else md5FnI x.b x.c x.d

/-- Round i of a compression (42_md5_compression.md R191). -/
def md5Round (w : Vector Word 16) (x : Acc) (i : Fin 64) : Acc :=
  md5Datapath i (md5Fn i x) (w.get (md5Index i)) x

/-- The accumulators after the 64 rounds, i ascending (42_md5_compression.md R191). -/
def md5Rounds (w : Vector Word 16) (x : Acc) : Acc := (List.finRange 64).foldl (md5Round w) x

/-- `COMPRESS(MD5, H, LOAD(MD5, buf))` (42_md5_compression.md R191). -/
def compressMd5 (A B C D : Word) (buf : Block) : Regs :=
  let x := md5Rounds (loadedMd5 buf) ⟨A, B, C, D, 0#32⟩
  .md5 (A + x.a) (B + x.b) (C + x.c) (D + x.d)

/-- One MD5 round as a micro-operation: f kept in its register, then the datapath
(42_md5_compression.md R182, R190). -/
def Engine.md5Micro (e : Engine) (i : Nat) (fn : Word → Word → Word → Word) (g : Fin 16) : Engine :=
  let x := e.work.acc
  let f := fn x.b x.c x.d
  { e with work := { e.work with f := f, acc := md5Datapath i f (e.work.md5ScheduleWord g) x } }

/-- MD5.F, round i = r, g = i (42_md5_compression.md R186). -/
def execMd5F (r : Fin 16) (s : State) : Result :=
  .next (s.withEng (s.eng.md5Micro r.val md5FnF (Fin.ofNat 16 r.val)))

/-- MD5.G, round i = 16 + r, g = (5i + 1) mod 16 (42_md5_compression.md R187). -/
def execMd5G (r : Fin 16) (s : State) : Result :=
  .next (s.withEng (s.eng.md5Micro (16 + r.val) md5FnG (Fin.ofNat 16 (5 * (16 + r.val) + 1))))

/-- MD5.H, round i = 32 + r, g = (3i + 5) mod 16 (42_md5_compression.md R188). -/
def execMd5H (r : Fin 16) (s : State) : Result :=
  .next (s.withEng (s.eng.md5Micro (32 + r.val) md5FnH (Fin.ofNat 16 (3 * (32 + r.val) + 5))))

/-- MD5.I, round i = 48 + r, g = 7i mod 16 (42_md5_compression.md R189). -/
def execMd5I (r : Fin 16) (s : State) : Result :=
  .next (s.withEng (s.eng.md5Micro (48 + r.val) md5FnI (Fin.ofNat 16 (7 * (48 + r.val)))))

/-- FEEDFWD.MD5: `H[r] <- add32(H[r], accumulator r)` (42_md5_compression.md R192). Registers A to D
exist for either algorithm. -/
def execFeedfwdMd5 (r : Fin 4) (s : State) : Result :=
  match s.eng.h.add r.val (s.eng.work.acc.get r.val) with
  | some h => .next (s.withEng { s.eng with h := h })
  | none => .fault .noRegisterE

end Sys2Proof.Machine
end

