-- ==== Sys2Proof/Machine/Sha1.lean ====
section
/-! DEFINITION. The SHA-1 compression engine (43_sha1_compression.md): the round functions, the datapath, the
whole compression, and the micro-operations SHA1.CH, SHA1.PAR1, SHA1.MAJ, SHA1.PAR2, FEEDFWD.SHA1. -/

namespace Sys2Proof.Machine

/-- The function of SHA1.CH (43_sha1_compression.md R213). -/
def sha1FnCh (b c d : Word) : Word := (b &&& c) ||| (~~~b &&& d)

/-- The function of SHA1.PAR1 and SHA1.PAR2 (43_sha1_compression.md R214, R216). -/
def sha1FnPar (b c d : Word) : Word := b ^^^ c ^^^ d

/-- The function of SHA1.MAJ (43_sha1_compression.md R215). -/
def sha1FnMaj (b c d : Word) : Word := (b &&& c) ||| (b &&& d) ||| (c &&& d)

/-- `temp` of a round: the five-term sum (43_sha1_compression.md R217). -/
def sha1Temp (f k w : Word) (x : Acc) : Word := rotl32 x.a 5 + f + x.e + k + w

/-- The new accumulators of a round (43_sha1_compression.md R217). -/
def sha1Shift (temp : Word) (x : Acc) : Acc :=
  { a := temp, b := x.a, c := rotl32 x.b 30, d := x.c, e := x.d }

/-- The function value of round i, by the range i falls in (43_sha1_compression.md R218). -/
def sha1Fn (i : Nat) (x : Acc) : Word :=
  if i < 20 then sha1FnCh x.b x.c x.d
  else if i < 40 then sha1FnPar x.b x.c x.d
  else if i < 60 then sha1FnMaj x.b x.c x.d
  else sha1FnPar x.b x.c x.d

/-- Round i of a compression (43_sha1_compression.md R218). -/
def sha1Round (w : Vector Word 80) (x : Acc) (i : Fin 80) : Acc :=
  sha1Shift (sha1Temp (sha1Fn i x) (sha1K (i.val / 20)) (w.get i) x) x

/-- The accumulators after the 80 rounds, i ascending (43_sha1_compression.md R218). -/
def sha1Rounds (w : Vector Word 80) (x : Acc) : Acc := (List.finRange 80).foldl (sha1Round w) x

/-- `COMPRESS(SHA1, H, LOAD(SHA1, buf))` (43_sha1_compression.md R218). -/
def compressSha1 (A B C D E : Word) (buf : Block) : Regs :=
  let x := sha1Rounds (scheduleSha1 buf) ⟨A, B, C, D, E⟩
  .sha1 (A + x.a) (B + x.b) (C + x.c) (D + x.d) (E + x.e)

/-- One SHA-1 round as a micro-operation: f and temp kept in their registers, then the new accumulators
(43_sha1_compression.md R217). -/
def Engine.sha1Micro (e : Engine) (i : Fin 80) (fn : Word → Word → Word → Word) (k : Word) : Engine :=
  let x := e.work.acc
  let f := fn x.b x.c x.d
  let temp := sha1Temp f k (e.work.sha1ScheduleWord i) x
  { e with work := { e.work with f := f, temp := temp, acc := sha1Shift temp x } }

/-- SHA1.CH, round i = r, k = K[0] (43_sha1_compression.md R213). -/
def execSha1Ch (r : Fin 20) (s : State) : Result :=
  .next (s.withEng (s.eng.sha1Micro ⟨r.val, by omega⟩ sha1FnCh (sha1K 0)))

/-- SHA1.PAR1, round i = 20 + r, k = K[1] (43_sha1_compression.md R214). -/
def execSha1Par1 (r : Fin 20) (s : State) : Result :=
  .next (s.withEng (s.eng.sha1Micro ⟨20 + r.val, by omega⟩ sha1FnPar (sha1K 1)))

/-- SHA1.MAJ, round i = 40 + r, k = K[2] (43_sha1_compression.md R215). -/
def execSha1Maj (r : Fin 20) (s : State) : Result :=
  .next (s.withEng (s.eng.sha1Micro ⟨40 + r.val, by omega⟩ sha1FnMaj (sha1K 2)))

/-- SHA1.PAR2, round i = 60 + r, k = K[3] (43_sha1_compression.md R216). -/
def execSha1Par2 (r : Fin 20) (s : State) : Result :=
  .next (s.withEng (s.eng.sha1Micro ⟨60 + r.val, by omega⟩ sha1FnPar (sha1K 3)))

/-- FEEDFWD.SHA1: `H[r] <- add32(H[r], accumulator r)` (43_sha1_compression.md R219). Register E does not
exist on MD5 registers (10_state.md R32; log 15). -/
def execFeedfwdSha1 (r : Fin 5) (s : State) : Result :=
  match s.eng.h.add r.val (s.eng.work.acc.get r.val) with
  | some h => .next (s.withEng { s.eng with h := h })
  | none => .fault .noRegisterE

end Sys2Proof.Machine
end

