-- ==== Sys2Proof/Machine/Absorb.lean ====
section
/-! DEFINITION. The commands INIT, ABSORB and ABORT, the four cases of ABSORB, and the micro-operations COUNT
and PAD (40_absorb_padding.md; 60_exceptions.md R287). -/

namespace Sys2Proof.Machine

/-! ## Steps of ABSORB -/

/-- Step 1: the counter after `n` more bytes (40_absorb_padding.md R133). Admission has excluded an overflow. -/
def countBits (bitcount : BitVec 64) (n : Nat) : BitVec 64 := bitcount + BitVec.ofNat 64 (8 * n)

/-- Step 3, PAD: the buffer and the next phase (40_absorb_padding.md R135 to R139). The shorter lists are
zero-filled by `blockOfList`. -/
def padBlock (a : Alg) (block : List Byte) (padPending : Bool) (bitcount : BitVec 64) : Block × Phase :=
  let content := padContent block padPending
  let c := content.length
  if Config.lenBytes ≤ Config.blockBytes - c then
    (blockOfList (content ++ List.replicate (Config.lenOffset - c) 0#8 ++ lengthField a bitcount), .done)
  else (blockOfList content, .awaitingLengthBlock)

/-- Steps 2 and 3: the buffer and the next phase (40_absorb_padding.md R131, R134, R135). -/
def fillBuffer (a : Alg) (block : List Byte) (phase : Phase) (bitcount : BitVec 64) : Block × Phase :=
  if block.length = 64 then (blockOfList block, .awaitingData)
  else padBlock a block phase.padPending bitcount

/-- Steps 4 and 5: `COMPRESS(alg, H, LOAD(alg, buf))` (42_md5_compression.md R191,
43_sha1_compression.md R218). It reads nothing but the registers and the buffer (R193, R220). -/
def compress (h : Regs) (buf : Block) : Regs :=
  match h with
  | .md5 A B C D => compressMd5 A B C D buf
  | .sha1 A B C D E => compressSha1 A B C D E buf

/-- Step 6: digest and hex stored (40_absorb_padding.md R142). -/
def Engine.format (e : Engine) : Engine :=
  { e with
    digest := Memory.ofList (serialize e.h)
    hex := Memory.ofList (hexstr (serialize e.h)) }

/-- What ends every ABSORB that is not turned away: the buffer compressed is appended to the ghost trace
(60_exceptions.md R312), the sequencer is at rest, and the working state is dead (10_state.md R39 to R41):
any value (log 5). -/
def Engine.retire (e : Engine) (buf : Block) : Engine :=
  { e with
    trace := e.trace ++ [buf]
    useq := none
    work := Work.free e.inst e.draws
    draws := e.draws + 1 }

/-- One admitted ABSORB with its counter, buffer and next phase known: compression, then the phase, then
step 6 when the phase is DONE (40_absorb_padding.md R131, R141, R142). -/
def Engine.absorbWith (e : Engine) (bitcount : BitVec 64) (buf : Block) (next : Phase) : Engine :=
  let e1 := { e with bitcount := bitcount, h := compress e.h buf, phase := next }
  (if next = .done then e1.format else e1).retire buf

/-- The body of ABSORB (40_absorb_padding.md R131), after the admission checks. -/
def Engine.absorbBody (block : List Byte) (e : Engine) : Engine :=
  let count := countBits e.bitcount block.length
  let filled := fillBuffer e.h.alg block e.phase count
  e.absorbWith count filled.1 filled.2

/-- The body of ABSORB.FULL (40_absorb_padding.md R145). -/
def Engine.fullBody (block : List Byte) (e : Engine) : Engine :=
  e.absorbWith (e.bitcount + 512#64) (blockOfList block) e.phase

/-- The body of ABSORB.FINAL (40_absorb_padding.md R146). -/
def Engine.finalBody (block : List Byte) (e : Engine) : Engine :=
  let count := countBits e.bitcount block.length
  e.absorbWith count
    (blockOfList (block ++ 0x80#8 :: List.replicate (55 - block.length) 0#8 ++ lengthField e.h.alg count))
    .done

/-- The body of ABSORB.SPILL (40_absorb_padding.md R147). -/
def Engine.spillBody (block : List Byte) (e : Engine) : Engine :=
  e.absorbWith (countBits e.bitcount block.length)
    (blockOfList (block ++ 0x80#8 :: List.replicate (63 - block.length) 0#8)) .awaitingLengthBlock

/-- The body of ABSORB.LENGTH (40_absorb_padding.md R148). -/
def Engine.lengthBody (e : Engine) : Engine :=
  e.absorbWith e.bitcount (blockOfList (List.replicate 56 0#8 ++ lengthField e.h.alg e.bitcount)) .done

/-- The body of the word `0x2000`: ABSORB.LENGTH in AWAITING_LENGTH_BLOCK, ABSORB.FINAL in AWAITING_DATA
(40_absorb_padding.md R148). Log 11. -/
def Engine.shortBody (block : List Byte) (e : Engine) : Engine :=
  if e.phase = .awaitingLengthBlock then e.lengthBody else e.finalBody block

/-- ABORT (60_exceptions.md R287). -/
def Engine.abandon (e : Engine) : Engine :=
  match e.phase with
  | .idle | .faulted => e
  | .awaitingData | .awaitingLengthBlock | .done => e.raise .upstreamAbort

/-! ## Commands -/

/-- INIT (40_absorb_padding.md R130). -/
def execInit (a : Alg) (s : State) : Result := .next (s.withEng (s.eng.create a))

/-- ABSORB (40_absorb_padding.md R131, R132). -/
def execAbsorb (block : List Byte) (s : State) : Result :=
  .next (s.withEng (s.eng.gated block.length (Engine.absorbBody block)))

/-- ABORT (60_exceptions.md R287). -/
def execAbort (s : State) : Result := .next (s.withEng s.eng.abandon)

/-- ABSORB.FULL (40_absorb_padding.md R145). -/
def execAbsorbFull (block : List Byte) (s : State) : Result :=
  .next (s.withEng (s.eng.gated block.length (Engine.fullBody block)))

/-- ABSORB.FINAL (40_absorb_padding.md R146). -/
def execAbsorbFinal (block : List Byte) (s : State) : Result :=
  .next (s.withEng (s.eng.gated block.length (Engine.shortBody block)))

/-- ABSORB.SPILL (40_absorb_padding.md R147). -/
def execAbsorbSpill (block : List Byte) (s : State) : Result :=
  .next (s.withEng (s.eng.gated block.length (Engine.spillBody block)))

/-- ABSORB.LENGTH (40_absorb_padding.md R148). -/
def execAbsorbLength (s : State) : Result :=
  .next (s.withEng (s.eng.gated 0 (Engine.shortBody [])))

/-! ## Micro-operations COUNT and PAD -/

/-- COUNT (40_absorb_padding.md R133). The coordinate's alg bit is not read. -/
def execCount (_a : Alg) (s : State) : Result :=
  .next (s.withEng { s.eng with bitcount := countBits s.eng.bitcount s.eng.work.block.length })

/-- PAD (40_absorb_padding.md R135 to R140). The byte order is that of `alg` (20_memory.md R73); the
coordinate's alg bit is `alg` (10_state.md R45) and is not read. Log 17. -/
def execPad (_a : Alg) (s : State) : Result :=
  let filled := padBlock s.eng.h.alg s.eng.work.block s.eng.phase.padPending s.eng.bitcount
  .next (s.withEng { s.eng with work := { s.eng.work with buf := filled.1, next := filled.2 } })

end Sys2Proof.Machine
end

