-- ==== Sys2Proof/Machine/Dispatch.lean ====
section
/-! DEFINITION. One arm per instruction, each one call of its meaning. -/

namespace Sys2Proof.Machine

-- Commands (30_encoding.md R101), the cases of ABSORB (R116), the micro-operations (R108).
def exec (i : Instr) (s : State) : Host.Outcome State Fault Refusal :=
  match i with
  | .init a => Sys2Proof.Machine.execInit a s
  | .absorb block => Sys2Proof.Machine.execAbsorb block s
  | .abort => Sys2Proof.Machine.execAbort s
  | .absorbFull block => Sys2Proof.Machine.execAbsorbFull block s
  | .absorbFinal block => Sys2Proof.Machine.execAbsorbFinal block s
  | .absorbSpill block => Sys2Proof.Machine.execAbsorbSpill block s
  | .absorbLength => Sys2Proof.Machine.execAbsorbLength s
  | .count a => Sys2Proof.Machine.execCount a s
  | .pad a => Sys2Proof.Machine.execPad a s
  | .loadMd5 j => Sys2Proof.Machine.execLoadMd5 j s
  | .loadSha1 j => Sys2Proof.Machine.execLoadSha1 j s
  | .expandSha1 r => Sys2Proof.Machine.execExpandSha1 r s
  | .md5F r => Sys2Proof.Machine.execMd5F r s
  | .md5G r => Sys2Proof.Machine.execMd5G r s
  | .md5H r => Sys2Proof.Machine.execMd5H r s
  | .md5I r => Sys2Proof.Machine.execMd5I r s
  | .sha1Ch r => Sys2Proof.Machine.execSha1Ch r s
  | .sha1Par1 r => Sys2Proof.Machine.execSha1Par1 r s
  | .sha1Maj r => Sys2Proof.Machine.execSha1Maj r s
  | .sha1Par2 r => Sys2Proof.Machine.execSha1Par2 r s
  | .feedfwdMd5 r => Sys2Proof.Machine.execFeedfwdMd5 r s
  | .feedfwdSha1 r => Sys2Proof.Machine.execFeedfwdSha1 r s
  | .formatMd5 r => Sys2Proof.Machine.execFormatMd5 r s
  | .formatSha1 r => Sys2Proof.Machine.execFormatSha1 r s

end Sys2Proof.Machine
end

