-- ==== Sys2Proof/WellFormed.lean ====
section
/-! DEFINITION. Which instructions are well formed. Every index carries its range in its type
(30_encoding.md R108, R112); what is left to check is the length of a block. -/

namespace Sys2Proof

/-- The well-formed instructions: a block no longer than the 7-bit `len` can say (30_encoding.md R103),
and in the four cases of ABSORB a length in the case's range (R116; 40_absorb_padding.md R145 to R147). -/
def Instr.wf : Instr → Bool
  | .absorb block => decide (block.length ≤ Config.maxLen)
  | .absorbFull block => decide (block.length = 64)
  | .absorbFinal block => decide (block.length ≤ 55)
  | .absorbSpill block => decide (56 ≤ block.length ∧ block.length ≤ 63)
  | .init _ | .abort | .absorbLength | .count _ | .pad _ | .loadMd5 _ | .loadSha1 _ | .expandSha1 _
  | .md5F _ | .md5G _ | .md5H _ | .md5I _ | .sha1Ch _ | .sha1Par1 _ | .sha1Maj _ | .sha1Par2 _
  | .feedfwdMd5 _ | .feedfwdSha1 _ | .formatMd5 _ | .formatSha1 _ => true

end Sys2Proof
end

