-- ==== Sys2Proof/Decode.lean ====
section
/-! DEFINITION. The decoder of command words (30_encoding.md R101 to R104, R110) and of sequencer
coordinates (R108), total on any bits and rejecting by name, then the encoder, then the host's view of an
opcode-table row as a number. -/

namespace Sys2Proof

/-! ## Fields -/

/-- The numeric code of `alg`: MD5 = 0, SHA1 = 1 (10_state.md R36). -/
def Alg.bit : Alg → BitVec 1
  | .md5 => 0#1
  | .sha1 => 1#1

/-- The algorithm that a code bit names (10_state.md R36). -/
def Alg.ofBit (b : BitVec 1) : Alg := if b = 0#1 then .md5 else .sha1

/-- `op`, bits 15:12 of a command word (30_encoding.md R101). -/
def cmdOp (word : BitVec 16) : BitVec 4 := word.extractLsb' 12 4

/-- `rsv`, bits 11:7 of a command word (30_encoding.md R101). -/
def cmdRsv (word : BitVec 16) : BitVec 5 := word.extractLsb' 7 5

/-- `arg`, bits 6:0 of a command word (30_encoding.md R101). -/
def cmdArg (word : BitVec 16) : BitVec 7 := word.extractLsb' 0 7

/-- `useq[10]` (30_encoding.md R108). -/
def coordAlg (c : BitVec 11) : Alg := Alg.ofBit (c.extractLsb' 10 1)

/-- `useq[9:7]` (30_encoding.md R108). -/
def coordStage (c : BitVec 11) : Nat := (c.extractLsb' 7 3).toNat

/-- `useq[6:0]` (30_encoding.md R108). -/
def coordIdx (c : BitVec 11) : Nat := (c.extractLsb' 0 7).toNat

/-! ## Decoding -/

/-- What the decoder says of a command or a coordinate. -/
inductive Verdict where
  /-- An instruction. -/
  | instr (i : Instr)
  /-- A reserved command word: the verdict `invalid` of 30_encoding.md R110. -/
  | reserved
  /-- The payload's length is not the one the word says: such a transaction cannot be formed (R100). -/
  | payloadMismatch
  /-- A coordinate outside the table of R108, which never occurs (R112). -/
  | noCoordinate
deriving DecidableEq, Repr

/-- An instruction of a word without payload (30_encoding.md R100, R102, R104). -/
def bare (i : Instr) (payload : List Byte) : Verdict :=
  if payload = [] then .instr i else .payloadMismatch

/-- The decoder of a command transaction: a word and its payload (30_encoding.md R101 to R104, R110). -/
def decodeCommand (word : BitVec 16) (payload : List Byte) : Verdict :=
  if cmdRsv word ≠ 0#5 then .reserved
  else match (cmdOp word).toNat with
    | 1 =>
      if (cmdArg word).extractLsb' 1 6 ≠ 0#6 then .reserved
      else bare (.init (Alg.ofBit ((cmdArg word).extractLsb' 0 1))) payload
    | 2 => if payload.length = (cmdArg word).toNat then .instr (.absorb payload) else .payloadMismatch
    | 3 => if cmdArg word ≠ 0#7 then .reserved else bare .abort payload
    | _ => .reserved

/-- The decoder of a sequencer coordinate: the table of 30_encoding.md R108. -/
def decodeCoord (c : BitVec 11) : Verdict :=
  let i := coordIdx c
  match coordStage c, coordAlg c with
  | 0, a => if i = 0 then .instr (.count a) else .noCoordinate
  | 1, a => if i = 0 then .instr (.pad a) else .noCoordinate
  | 2, .md5 => if h : i < 16 then .instr (.loadMd5 ⟨i, h⟩) else .noCoordinate
  | 2, .sha1 => if h : i < 16 then .instr (.loadSha1 ⟨i, h⟩) else .noCoordinate
  | 3, .sha1 =>
    if h : 16 ≤ i ∧ i < 80 then .instr (.expandSha1 ⟨i - 16, by omega⟩) else .noCoordinate
  | 4, .md5 =>
    if h0 : i < 16 then .instr (.md5F ⟨i, h0⟩)
    else if h1 : i < 32 then .instr (.md5G ⟨i - 16, by omega⟩)
    else if h2 : i < 48 then .instr (.md5H ⟨i - 32, by omega⟩)
    else if h3 : i < 64 then .instr (.md5I ⟨i - 48, by omega⟩)
    else .noCoordinate
  | 4, .sha1 =>
    if h0 : i < 20 then .instr (.sha1Ch ⟨i, h0⟩)
    else if h1 : i < 40 then .instr (.sha1Par1 ⟨i - 20, by omega⟩)
    else if h2 : i < 60 then .instr (.sha1Maj ⟨i - 40, by omega⟩)
    else if h3 : i < 80 then .instr (.sha1Par2 ⟨i - 60, by omega⟩)
    else .noCoordinate
  | 5, .md5 => if h : i < 4 then .instr (.feedfwdMd5 ⟨i, h⟩) else .noCoordinate
  | 5, .sha1 => if h : i < 5 then .instr (.feedfwdSha1 ⟨i, h⟩) else .noCoordinate
  | 6, .md5 => if h : i < 4 then .instr (.formatMd5 ⟨i, h⟩) else .noCoordinate
  | 6, .sha1 => if h : i < 5 then .instr (.formatSha1 ⟨i, h⟩) else .noCoordinate
  | _, _ => .noCoordinate

/-! ## Encoding -/

/-- The two binary forms: a command transaction (30_encoding.md R100) and a coordinate (R108). -/
inductive Code where
  | command (word : BitVec 16) (payload : List Byte)
  | coord (c : BitVec 11)
deriving DecidableEq, Repr

/-- The command word with the given `op` and `arg`, `rsv` = 0 (30_encoding.md R101). -/
def commandWord (op : BitVec 4) (arg : BitVec 7) : BitVec 16 := op ++ 0#5 ++ arg

/-- ABSORB of a block: `len` in the word, the block as payload (30_encoding.md R103). -/
def absorbCode (block : List Byte) : Code :=
  .command (commandWord 2#4 (BitVec.ofNat 7 block.length)) block

/-- The packing of a coordinate (30_encoding.md R108). -/
def packCoord (a : Alg) (stage : BitVec 3) (idx : Nat) : BitVec 11 :=
  a.bit ++ stage ++ BitVec.ofNat 7 idx

/-- The encoder (30_encoding.md R102 to R104, R108; R116 for the four cases of ABSORB). -/
def encode : Instr → Code
  | .init a => .command (commandWord 1#4 (0#6 ++ a.bit)) []
  | .absorb block => absorbCode block
  | .abort => .command (commandWord 3#4 0#7) []
  | .absorbFull block => absorbCode block
  | .absorbFinal block => absorbCode block
  | .absorbSpill block => absorbCode block
  | .absorbLength => absorbCode []
  | .count a => .coord (packCoord a 0#3 0)
  | .pad a => .coord (packCoord a 1#3 0)
  | .loadMd5 j => .coord (packCoord .md5 2#3 j)
  | .loadSha1 j => .coord (packCoord .sha1 2#3 j)
  | .expandSha1 r => .coord (packCoord .sha1 3#3 (16 + r))
  | .md5F r => .coord (packCoord .md5 4#3 r)
  | .md5G r => .coord (packCoord .md5 4#3 (16 + r))
  | .md5H r => .coord (packCoord .md5 4#3 (32 + r))
  | .md5I r => .coord (packCoord .md5 4#3 (48 + r))
  | .sha1Ch r => .coord (packCoord .sha1 4#3 r)
  | .sha1Par1 r => .coord (packCoord .sha1 4#3 (20 + r))
  | .sha1Maj r => .coord (packCoord .sha1 4#3 (40 + r))
  | .sha1Par2 r => .coord (packCoord .sha1 4#3 (60 + r))
  | .feedfwdMd5 r => .coord (packCoord .md5 5#3 r)
  | .feedfwdSha1 r => .coord (packCoord .sha1 5#3 r)
  | .formatMd5 r => .coord (packCoord .md5 6#3 r)
  | .formatSha1 r => .coord (packCoord .sha1 6#3 r)

/-- The decoder of either form. -/
def decode : Code → Verdict
  | .command word payload => decodeCommand word payload
  | .coord c => decodeCoord c

/-- The instruction as the decoder names it: the four cases of ABSORB share ABSORB's word and are told
apart by length and phase (30_encoding.md R116), so their word decodes to ABSORB. Log 11. -/
def Instr.asCommand : Instr → Instr
  | .absorbFull block => .absorb block
  | .absorbFinal block => .absorb block
  | .absorbSpill block => .absorb block
  | .absorbLength => .absorb []
  | i => i

/-! ## A row of the opcode table as a number -/

/-- Byte `k` of the payload that stands above the command word in a table number. -/
def tablePayloadByte (rest k : Nat) : Byte := BitVec.ofNat 8 (rest >>> (8 * k))

/-- The payload of a table number: as many bytes as an ABSORB word says, none for any other word. -/
def tablePayload (word : BitVec 16) (rest : Nat) : List Byte :=
  if cmdOp word = 2#4 then (List.range (cmdArg word).toNat).map (tablePayloadByte rest) else []

/-- The binary form that a table number stands for. The table's coordinates have 11 bits and its command
words have `op` at least 1, so a number below 2^11 is a coordinate and any other a command. Log 12. -/
def tableCode (nbits w : Nat) : Code :=
  let v := w % 2 ^ nbits
  if v < 2 ^ 11 then .coord (BitVec.ofNat 11 v)
  else .command (BitVec.ofNat 16 v) (tablePayload (BitVec.ofNat 16 v) (v >>> 16))

/-- The instruction the decoder reads from a row of the opcode table, given as a number. -/
def decodeTableWord (nbits w : Nat) : Option Instr :=
  match decode (tableCode nbits w) with
  | .instr i => some i
  | _ => none

end Sys2Proof
end

