-- ==== Sys2Proof/Machine/Sequencer.lean ====
section
/-! DEFINITION. The sequencer of an ABSORB (10_state.md R45, R47): where the coordinate goes after each
micro-operation, and what happens on the way (log 13). -/

namespace Sys2Proof.Machine

/-- The coordinate set to a position (30_encoding.md R108). -/
def Engine.goTo (e : Engine) (a : Alg) (stage : BitVec 3) (idx : Nat) : Engine :=
  { e with useq := some (packCoord a stage idx) }

/-- An ABSORB begins: the block is handed over and the coordinate is COUNT.0 (10_state.md R45,
20_memory.md R70). Admission has been passed. -/
def Engine.begin (block : List Byte) (e : Engine) : Engine :=
  { e with work := { e.work with block := block }, useq := some (packCoord e.h.alg 0#3 0) }

/-- After COUNT: a full block goes directly to step 4 (10_state.md R47(a), 40_absorb_padding.md R134). -/
def Engine.afterCount (e : Engine) (a : Alg) : Engine :=
  if e.work.block.length = 64 then
    { e with work := { e.work with buf := blockOfList e.work.block, next := .awaitingData } }.goTo a 2#3 0
  else e.goTo a 1#3 0

/-- Into the rounds: the accumulators are seeded (42_md5_compression.md R181, 43_sha1_compression.md
R211). -/
def Engine.enterRounds (e : Engine) (a : Alg) : Engine :=
  { e with work := { e.work with acc := e.work.acc.seed e.h } }.goTo a 4#3 0

/-- After the feed-forward: the phase is written, and FORMAT runs only when it is DONE
(40_absorb_padding.md R131, R141; 10_state.md R47(e)). -/
def Engine.afterFeedfwd (e : Engine) (a : Alg) : Engine :=
  let e1 := { e with phase := e.work.next }
  if e1.phase.fullyPadded then e1.goTo a 6#3 0 else e1.retire e1.work.buf

/-- The last index of a stage (10_state.md R45). -/
def lastIdx (a : Alg) : Nat → Nat
  | 2 => 15
  | 3 => 79
  | 4 => Config.nround a - 1
  | 5 => Config.nreg a - 1
  | 6 => Config.nreg a - 1
  | _ => 0

/-- After the micro-operation at a coordinate: the next index of its stage, or the next stage
(10_state.md R45, R47). -/
def Engine.advance (e : Engine) (c : BitVec 11) : Engine :=
  let a := coordAlg c
  if coordIdx c < lastIdx a (coordStage c) then { e with useq := some (c + 1#11) }
  else match coordStage c, a with
    | 0, a => e.afterCount a
    | 1, a => e.goTo a 2#3 0
    | 2, .md5 => e.enterRounds .md5
    | 2, .sha1 => e.goTo .sha1 3#3 16
    | 3, a => e.enterRounds a
    | 4, a => e.goTo a 5#3 0
    | 5, a => e.afterFeedfwd a
    | _, _ => e.retire e.work.buf

end Sys2Proof.Machine
end

