-- ==== Sys2Proof/Machine/Fetch.lean ====
section
/-! DEFINITION. What a step fetches: the coordinate of an ABSORB in progress, or the oldest input
(10_state.md R45, 20_memory.md R80). -/

namespace Sys2Proof.Machine

/-- What the next step has to do. -/
inductive Fetched where
  /-- The micro-operation at a coordinate of the addressed instance. -/
  | micro (c : BitVec 11) (i : Instr)
  /-- A command, with the machine that has taken it: its instance addressed, the input gone. -/
  | command (i : Instr) (t : State)
  /-- A reserved command word, taken likewise. -/
  | reservedWord (t : State)
  /-- The hardware reset event, taken. -/
  | resetEvent (t : State)
  /-- Nothing. -/
  | idle
  /-- What cannot be formed (log 19). -/
  | stop (r : Refusal)
deriving DecidableEq, Repr

/-- The input of a command, taken on the machine that addresses its instance (30_encoding.md R100). -/
def fetchCommand (t : State) (word : BitVec 16) (payload : List Byte) : Fetched :=
  match decodeCommand word payload with
  | .instr i => .command i t
  | .reserved => .reservedWord t
  | .payloadMismatch => .stop .malformedTransaction
  | .noCoordinate => .stop .malformedTransaction

/-- The oldest input (20_memory.md R80). -/
def State.fetchInput (s : State) : Fetched :=
  match s.pending with
  | [] => .idle
  | .reset :: rest => .resetEvent { s with pending := rest }
  | .command k word payload :: rest =>
    match { s with pending := rest }.select k with
    | none => .stop (.noSuchInstance k)
    | some t => fetchCommand t word payload

/-- What the next step has to do. -/
def State.fetch (s : State) : Fetched :=
  match s.eng.useq with
  | none => s.fetchInput
  | some c =>
    match decodeCoord c with
    | .instr i => .micro c i
    | .reserved => .stop .noSuchCoordinate
    | .payloadMismatch => .stop .noSuchCoordinate
    | .noCoordinate => .stop .noSuchCoordinate

/-- `s` inside an ABSORB, at a coordinate. -/
def State.withCoord (s : State) (c : BitVec 11) : State := s.withEng { s.eng with useq := some c }

/-- `s` with a command to the addressed instance as its oldest input, that instance not inside an ABSORB. -/
def State.withCommand (s : State) (word : BitVec 16) (payload : List Byte) : State :=
  { s with
    eng := { s.eng with useq := none }
    pending := .command s.below.length word payload :: s.pending }

end Sys2Proof.Machine
end

