-- ==== Sys2Proof/Machine/Step.lean ====
section
/-! DEFINITION. One step of the machine, and how an instruction is placed where the next step fetches it. -/

namespace Sys2Proof.Machine

/-- One step. Inside an ABSORB the micro-operation at the coordinate runs and the sequencer advances
(10_state.md R45); otherwise the oldest input is taken (20_memory.md R80): a command runs on the instance it
addresses, a reserved word raises BAD_COMMAND (60_exceptions.md R286), a reset event resets every instance
(70_reset_and_hazards.md R320). With no input the machine keeps its state (60_exceptions.md R313). -/
def step (s : State) : Host.Outcome State Fault Refusal :=
  match s.fetch with
  | .micro c i =>
    match exec i s with
    | .next t => .next (t.withEng (t.eng.advance c))
    | .fault r => .fault r
    | .refused r => .refused r
  | .command i t => exec i t
  | .reservedWord t => .next (t.withEng t.eng.badCommand)
  | .resetEvent t => .next t.hardReset
  | .idle => .next s
  | .stop r => .refused r

/-- `s` with the instruction of a table number stored where `step` fetches its next one: a coordinate in the
addressed instance's `useq`, a command as the oldest input to that instance, which is then not inside an
ABSORB. Log 9, 12. -/
def State.withFetchWord (s : State) (nbits w : Nat) : State :=
  match tableCode nbits w with
  | .coord c => s.withCoord c
  | .command word payload => s.withCommand word payload

end Sys2Proof.Machine
end

