-- ==== Sys2Proof/Machine/Driver.lean ====
section
/-! DEFINITION. The host's side of the protocol (45_driver_protocol.md): the pseudo-instructions FINISH,
DIGEST and STREAM (30_encoding.md R115) as sequences of commands to the addressed instance. -/

namespace Sys2Proof.Machine

/-- One thing after another, stopping at the first fault or refusal. -/
def andThen (r : Result) (next : State → Result) : Result :=
  match r with
  | .next s => next s
  | .fault f => .fault f
  | .refused f => .refused f

/-- ABSORB of each block of a list, in order. -/
def absorbAll : List (List Byte) → State → Result
  | [], s => .next s
  | block :: rest, s => andThen (exec (.absorb block) s) (absorbAll rest)

/-- FINISH: one ABSORB of the empty block unless the phase is DONE (45_driver_protocol.md R262). -/
def finish (s : State) : Result :=
  if s.eng.phase = .done then .next s else exec (.absorb []) s

/-- The blocks the Slice Driver delivers: the complete 64-byte chunks of the message, then the remaining
`len(m) mod 64` bytes, possibly none (45_driver_protocol.md R261). -/
def sliceBlocks (m : List Byte) : List (List Byte) :=
  (List.range (m.length / 64)).map (fun k => (m.drop (64 * k)).take 64) ++
    [m.drop (64 * (m.length / 64))]

/-- DIGEST alg, m: the Slice Driver (45_driver_protocol.md R261). -/
def sliceDriver (a : Alg) (m : List Byte) (s : State) : Result :=
  andThen (exec (.init a) s) fun s1 => andThen (absorbAll (sliceBlocks m) s1) finish

/-- The loop of the Stream Driver over what the source delivers: `none` is a read error. A read shorter than
64 bytes ends the stream. With no further read the driver waits (45_driver_protocol.md R263). -/
def streamLoop : List (Option (List Byte)) → State → Result
  | [], s => .next s
  | none :: _, s => exec .abort s
  | some chunk :: rest, s =>
    andThen (exec (.absorb chunk) s) fun s1 =>
      if chunk.length < 64 then finish s1 else streamLoop rest s1

/-- STREAM alg, source: the Stream Driver (45_driver_protocol.md R263). -/
def streamDriver (a : Alg) (reads : List (Option (List Byte))) (s : State) : Result :=
  andThen (exec (.init a) s) (streamLoop reads)

end Sys2Proof.Machine
end

