-- ==== Sys2Proof/Machine/Observe.lean ====
section
/-! DEFINITION. What the host can read (10_state.md R48). A read has no side effect (20_memory.md R76). A
field that is not valid gives no value (10_state.md R43, 70_reset_and_hazards.md R337). -/

namespace Sys2Proof.Machine

/-- The bit of a flag. -/
def flagBit (b : Bool) : BitVec 1 := if b then 1#1 else 0#1

/-- `STATUS.ALG` as read: `alg` while a computation exists, any value in IDLE and FAULTED
(10_state.md R48, 93 U11). Log 6. -/
def Engine.statusAlg (e : Engine) : Alg :=
  if e.phase.live then e.h.alg else Config.freeStatusAlg e.inst e.draws

/-- The STATUS word (10_state.md R48): bits 31:9 read as zero, then ALG, FAULT, FULLY_PADDED, PAD_PENDING,
PHASE. -/
def Engine.status (e : Engine) : BitVec 32 :=
  0#23 ++ e.statusAlg.bit ++ e.fault.code ++ flagBit e.phase.fullyPadded ++ flagBit e.phase.padPending
    ++ e.phase.code

/-- `DIGEST[k]`: valid in DONE (10_state.md R48). -/
def Engine.digestByte (e : Engine) (k : Nat) : Option Byte :=
  if e.phase = .done then e.digest.read k else none

/-- `HEX[k]`: valid in DONE (10_state.md R48). -/
def Engine.hexChar (e : Engine) (k : Nat) : Option Char :=
  if e.phase = .done then e.hex.read k else none

/-- `BITCOUNT`: valid while a computation exists (10_state.md R48). -/
def Engine.readBitcount (e : Engine) : Option (BitVec 64) :=
  if e.phase.live then some e.bitcount else none

/-- `H[r]`: valid while a computation exists, for the registers that exist (10_state.md R48). -/
def Engine.readReg (e : Engine) (r : Nat) : Option Word :=
  if e.phase.live then e.h.get r else none

/-- The instance with index `k` as the host can see it: not in the middle of an ABSORB (20_memory.md R76).
Log 24. -/
def State.visible (s : State) (k : Nat) : Option Engine :=
  match s.engines[k]? with
  | none => none
  | some e => if e.useq = none then some e else none

/-- Host read of STATUS of instance `k` (10_state.md R48, number 0). -/
def State.readStatus (s : State) (k : Nat) : Option (BitVec 32) := (s.visible k).map Engine.status

/-- Host read of `DIGEST[j]` of instance `k` (10_state.md R48, number 1). -/
def State.readDigest (s : State) (k j : Nat) : Option Byte := (s.visible k).bind fun e => e.digestByte j

/-- Host read of `HEX[j]` of instance `k` (10_state.md R48, number 2). -/
def State.readHex (s : State) (k j : Nat) : Option Char := (s.visible k).bind fun e => e.hexChar j

/-- Host read of `BITCOUNT` of instance `k` (10_state.md R48, number 3). -/
def State.readBitcount (s : State) (k : Nat) : Option (BitVec 64) :=
  (s.visible k).bind Engine.readBitcount

/-- Host read of `H[r]` of instance `k` (10_state.md R48, number 4). -/
def State.readReg (s : State) (k r : Nat) : Option Word := (s.visible k).bind fun e => e.readReg r

end Sys2Proof.Machine
end

