-- ==== Sys2Proof/Safety.lean ====
section
/-! DEFINITION. The terms that claims use: which ABSORB an engine accepts, what a fault leaves, what holds
between commands (10_state.md R51), the order of the micro-operations (R45), and the digest of a message as
the rules define it (40_absorb_padding.md R143). -/

namespace Sys2Proof.Machine

/-- An ABSORB of `n` bytes is executed and raises nothing: none of the checks of 40_absorb_padding.md R132
applies. -/
def Engine.Accepts (e : Engine) (n : Nat) : Prop :=
  (e.phase = .awaitingData ∧ n ≤ 64 ∨ e.phase = .awaitingLengthBlock ∧ n = 0) ∧
    e.bitcount.toNat + 8 * n ≤ 2 ^ 64 - 1

/-- `t` is `s` after fault entry with code `c` (60_exceptions.md R290): phase FAULTED, the code, digest and
hex absent; the registers, the counter and the model's draw counter hold any value; nothing else
differs. -/
def FaultEntry (c : FaultCode) (s t : State) : Prop :=
  t = { s with eng := { s.eng with
    phase := .faulted, fault := c, digest := [], hex := [],
    h := t.eng.h, bitcount := t.eng.bitcount, draws := t.eng.draws } }

/-- `t` is `s` after an ABSORB that compressed `buf` (40_absorb_padding.md R131): counter, registers, phase,
digest and hex as given, the buffer appended to the ghost trace, the sequencer at rest; the working state and
the model's draw counter hold any value (10_state.md R39 to R41); nothing else differs. -/
def Absorbed (s t : State) (bitcount : BitVec 64) (buf : Block) (phase : Phase) (digest : Memory Byte)
    (hex : Memory Char) : Prop :=
  t = { s with eng := { s.eng with
    bitcount := bitcount, h := compress s.eng.h buf, phase := phase, digest := digest, hex := hex,
    trace := s.eng.trace ++ [buf], useq := none, work := t.eng.work, draws := t.eng.draws } }

/-- The invariants between commands (10_state.md R51 (a) to (f), with (c) for the phases in which the counter
is live), and the sequencer at rest. -/
def Engine.BetweenCommands (e : Engine) : Prop :=
  e.useq = none ∧
  (e.phase ≠ .done → e.digest = [] ∧ e.hex = []) ∧
  (e.phase = .done → e.digest = Memory.ofList (serialize e.h) ∧
    e.hex = Memory.ofList (hexstr (serialize e.h))) ∧
  (e.fault ≠ .none ↔ e.phase = .faulted) ∧
  (e.phase.live = true → e.bitcount.toNat % 8 = 0) ∧
  (e.phase = .awaitingData → e.bitcount.toNat % 512 = 0) ∧
  (e.phase = .awaitingLengthBlock → 56 ≤ e.bitcount.toNat / 8 % 64)

/-- Every instance is between commands. -/
def State.BetweenCommands (s : State) : Prop := ∀ e ∈ s.engines, e.BetweenCommands

/-- No instance is inside an ABSORB. -/
def State.AtRest (s : State) : Prop := ∀ e ∈ s.engines, e.useq = none

/-- The registers are the initial values with every buffer of the ghost trace compressed into them, oldest
first (42_md5_compression.md R193, 43_sha1_compression.md R220). -/
def Engine.Chained (e : Engine) : Prop :=
  e.phase.live = true → e.h = e.trace.foldl compress (Regs.initial e.h.alg)

/-- Every instance is chained and none is inside an ABSORB. -/
def State.Chained (s : State) : Prop := s.AtRest ∧ ∀ e ∈ s.engines, e.Chained

/-- The digest and hex stores are in canonical form. -/
def State.StoresCanonical (s : State) : Prop :=
  ∀ e ∈ s.engines, e.digest.wf = true ∧ e.hex.wf = true

/-- Instance `k` has index `k` (60_exceptions.md R299). -/
def State.Indexed (s : State) : Prop := s.engines.map Engine.inst = List.range s.engines.length

/-! ## Bytes and words by place -/

/-- Byte j of the length field (30_encoding.md R107): bits 8j + 7 to 8j of L for MD5, from the top for
SHA1. -/
def lengthByte (a : Alg) (count : BitVec 64) (j : Nat) : Byte :=
  match a with
  | .md5 => count.extractLsb' (8 * j) 8
  | .sha1 => count.extractLsb' (8 * (7 - j)) 8

/-- Word t of the schedule store. -/
def wordAt (w : Vector Word 80) (t : Nat) : Word := w.toList.getD t 0#32

/-- The instructions that may write the chaining registers: INIT, ABSORB and its cases, ABORT (whose fault
entry leaves them unspecified, 60_exceptions.md R290), and the feed-forward (10_state.md R33). -/
def mayWriteRegs : Instr → Bool
  | .init _ | .absorb _ | .abort | .absorbFull _ | .absorbFinal _ | .absorbSpill _ | .absorbLength
  | .feedfwdMd5 _ | .feedfwdSha1 _ => true
  | .count _ | .pad _ | .loadMd5 _ | .loadSha1 _ | .expandSha1 _ | .md5F _ | .md5G _ | .md5H _ | .md5I _
  | .sha1Ch _ | .sha1Par1 _ | .sha1Maj _ | .sha1Par2 _ | .formatMd5 _ | .formatSha1 _ => false

/-! ## Messages -/

/-- A byte sequence cut into 64-byte pieces. -/
def blocksOf (bytes : List Byte) : List Block :=
  (List.range (bytes.length / 64)).map fun k => blockOfList ((bytes.drop (64 * k)).take 64)

/-- `m || 0x80 || 0x00 * z || length_field(alg, 8*len(m))`, z the smallest number that makes the total a
multiple of 64 (40_absorb_padding.md R143). -/
def paddedMessage (a : Alg) (m : List Byte) : List Byte :=
  m ++ 0x80#8 :: (List.replicate ((64 - (m.length + 9) % 64) % 64) 0#8 ++
    lengthField a (BitVec.ofNat 64 (8 * m.length)))

/-- The registers after all compressions of a padded message (40_absorb_padding.md R143). -/
def messageRegs (a : Alg) (m : List Byte) : Regs :=
  (blocksOf (paddedMessage a m)).foldl compress (Regs.initial a)

/-- The digest of a message (40_absorb_padding.md R143). -/
def messageDigest (a : Alg) (m : List Byte) : List Byte := serialize (messageRegs a m)

/-- The computation in progress has absorbed the message `m`, and the buffers compressed are those that the
padding rules make of it so far (40_absorb_padding.md R133 to R140). -/
def Engine.HasAbsorbed (e : Engine) (m : List Byte) : Prop :=
  8 * m.length = e.bitcount.toNat ∧
  match e.phase with
  | .awaitingData => m.length % 64 = 0 ∧ e.trace = blocksOf m
  | .awaitingLengthBlock =>
    56 ≤ m.length % 64 ∧
      e.trace = blocksOf (m ++ 0x80#8 :: List.replicate (63 - m.length % 64) 0#8)
  | .done => e.trace = blocksOf (paddedMessage e.h.alg m)
  | .idle | .faulted => False

/-- Every computation in progress has absorbed some message, and no instance is inside an ABSORB. -/
def State.TracesMessages (s : State) : Prop :=
  s.AtRest ∧ ∀ e ∈ s.engines, e.phase.live = true → ∃ m, e.HasAbsorbed m

/-! ## Micro-operations -/

/-- The coordinates of an ABSORB of `n` bytes in their order (10_state.md R45). -/
def useqOrder (a : Alg) (n : Nat) : List (BitVec 11) :=
  [packCoord a 0#3 0] ++
  (if n = 64 then [] else [packCoord a 1#3 0]) ++
  (List.range 16).map (packCoord a 2#3) ++
  (match a with
    | .md5 => []
    | .sha1 => (List.range 64).map fun r => packCoord .sha1 3#3 (16 + r)) ++
  (List.range (Config.nround a)).map (packCoord a 4#3) ++
  (List.range (Config.nreg a)).map (packCoord a 5#3) ++
  (if n ≤ 55 then (List.range (Config.nreg a)).map (packCoord a 6#3) else [])

/-- `s` at the start of the micro-operations of an ABSORB of `block` (10_state.md R45). -/
def State.begun (s : State) (block : List Byte) : State := s.withEng (s.eng.begin block)

end Sys2Proof.Machine
end

