-- ==== Sys2Proof/Certificates/Slice0/Obligations.lean ====
section
/-! DEFINITION. The statements for the provers, as propositions. Each docstring names the rules of spec/ that
the statement formalises, or says what is the model's own choice. -/

open Sys2Proof Sys2Proof.Machine

/-! ## Encoding -/

/-- Decoding the encoding of any well-formed instruction gives it back; the four cases of ABSORB come back as
ABSORB, whose word they share (30_encoding.md R101 to R104, R108, R116; log 11). -/
def Obligations.DecodeOfEncodeIsTheInstruction : Prop :=
  ∀ i : Instr, i.wf = true → decode (encode i) = .instr i.asCommand

/-- Every code that decodes to an instruction is that instruction's own encoding, and the instruction is well
formed: no two codes mean the same (30_encoding.md R101 to R104, R108). -/
def Obligations.DecodableCodeIsTheEncoding : Prop :=
  ∀ (c : Code) (i : Instr), decode c = .instr i → i.wf = true ∧ encode i = c

/-- Words and coordinates written out from 30_encoding.md R102 to R104 and R108 decode to the instructions
they stand for. -/
def Obligations.WrittenOutWordsDecode : Prop :=
  decodeCommand 0x1000#16 [] = .instr (.init .md5) ∧
  decodeCommand 0x1001#16 [] = .instr (.init .sha1) ∧
  decodeCommand 0x2003#16 [0x61#8, 0x62#8, 0x63#8] = .instr (.absorb [0x61#8, 0x62#8, 0x63#8]) ∧
  decodeCommand 0x3000#16 [] = .instr .abort ∧
  decodeCoord 0x000#11 = .instr (.count .md5) ∧
  decodeCoord 0x480#11 = .instr (.pad .sha1) ∧
  decodeCoord 0x10f#11 = .instr (.loadMd5 15) ∧
  decodeCoord 0x501#11 = .instr (.loadSha1 1) ∧
  decodeCoord 0x590#11 = .instr (.expandSha1 0) ∧
  decodeCoord 0x21f#11 = .instr (.md5G 15) ∧
  decodeCoord 0x230#11 = .instr (.md5I 0) ∧
  decodeCoord 0x613#11 = .instr (.sha1Ch 19) ∧
  decodeCoord 0x614#11 = .instr (.sha1Par1 0) ∧
  decodeCoord 0x283#11 = .instr (.feedfwdMd5 3) ∧
  decodeCoord 0x704#11 = .instr (.formatSha1 4)

/-- Which command words are reserved, and what an instance does that receives one: the fault BAD_COMMAND,
in any phase except FAULTED, where it is ignored (30_encoding.md R110, 60_exceptions.md R286). The model's
choices in it: that a reserved word is reserved whatever its payload (log 19), the list of inputs and the
addressing (log 8, 9), and that fault entry keeps the ghost trace (log 25). -/
def Obligations.ReservedWordsRaiseBadCommand : Prop :=
  (∀ (word : BitVec 16) (payload : List Byte),
    decodeCommand word payload = .reserved ↔
      (word.toNat / 4096 = 0 ∨ 4 ≤ word.toNat / 4096 ∨ word.toNat / 128 % 32 ≠ 0 ∨
        (word.toNat / 4096 = 1 ∧ word.toNat % 128 / 2 ≠ 0) ∨
        (word.toNat / 4096 = 3 ∧ word.toNat % 128 ≠ 0))) ∧
  (∀ (s t : State) (k : Nat) (word : BitVec 16) (payload : List Byte) (rest : List Input),
    s.eng.useq = none → s.pending = .command k word payload :: rest →
    State.select { s with pending := rest } k = some t → decodeCommand word payload = .reserved →
    (t.eng.phase = .faulted → step s = .next t) ∧
    (t.eng.phase ≠ .faulted → ∃ u, step s = .next u ∧ FaultEntry .badCommand t u))

/-! ## The step -/

/-- When the oldest input is a command that decodes to `i` and no ABSORB is in progress, the step is `exec i`
on the machine that has taken the input and addresses the command's instance; taking it changes no
instance (20_memory.md R80; the list of inputs and the addressing are the model's, log 8, 9). -/
def Obligations.StepRunsTheDecodedCommand : Prop :=
  ∀ (s : State) (k : Nat) (word : BitVec 16) (payload : List Byte) (rest : List Input) (i : Instr),
    s.eng.useq = none → s.pending = .command k word payload :: rest → k < s.engines.length →
    decodeCommand word payload = .instr i →
    ∃ t, step s = exec i t ∧ t.pending = rest ∧ t.engines = s.engines ∧ s.engines[k]? = some t.eng ∧
      t.below.length = k

/-- Inside an ABSORB the step is `exec` of the micro-operation at the coordinate, after which the sequencer
advances (10_state.md R45, R108; the stepping is the model's, log 10). -/
def Obligations.StepRunsTheMicroOperation : Prop :=
  ∀ (s t : State) (c : BitVec 11) (i : Instr),
    s.eng.useq = some c → decodeCoord c = .instr i → exec i s = .next t →
    step s = .next { t with eng := t.eng.advance c }

/-- The model's choices for the other steps: a hardware reset event puts every instance, in its place, into the
reset state with its own index and draw counter (log 20, 7; the fields that the spec leaves unspecified after
reset get the values of log 1 to 3, the ghost trace that of log 25), and nothing of a computation survives it (70_reset_and_hazards.md R320,
R323); with no input the machine keeps its state (log 18; 60_exceptions.md R313). -/
def Obligations.ResetEventAndIdleStep : Prop :=
  (∀ (s : State) (rest : List Input), s.eng.useq = none → s.pending = .reset :: rest →
    ∃ t, step s = .next t ∧ t.pending = rest ∧
      t.engines = s.engines.map fun d => { Engine.reset d.inst with draws := d.draws }) ∧
  (∀ s : State, s.eng.useq = none → s.pending = [] → step s = .next s)

/-- What cannot be formed is refused by the step under a name of its own (30_encoding.md R100, R112,
60_exceptions.md R299; the refusals are the model's, log 19). -/
def Obligations.StepRefusesWhatCannotBeFormed : Prop :=
  (∀ (s : State) (c : BitVec 11), s.eng.useq = some c → decodeCoord c = .noCoordinate →
    step s = .refused .noSuchCoordinate) ∧
  (∀ (s : State) (k : Nat) (word : BitVec 16) (payload : List Byte) (rest : List Input),
    s.eng.useq = none → s.pending = .command k word payload :: rest →
    (s.engines.length ≤ k → step s = .refused (.noSuchInstance k)) ∧
    (k < s.engines.length → decodeCommand word payload = .payloadMismatch →
      step s = .refused .malformedTransaction))

/-- From a machine with no ABSORB in progress, no step ends in a fault, and the only refusals are those of
a command that cannot be formed; a next state has again no ABSORB in progress (60_exceptions.md R289,
R294). -/
def Obligations.StepAtRestGoesOn : Prop :=
  ∀ s : State, s.AtRest →
    (∃ t, step s = .next t ∧ t.AtRest) ∨
    (∃ k word payload rest, s.pending = .command k word payload :: rest ∧
      (s.engines.length ≤ k ∨ decodeCommand word payload = .payloadMismatch))

/-! ## Commands -/

/-- INIT, in every phase (40_absorb_padding.md R130); the trace starts afresh (60_exceptions.md R312). That the
working state and the coordinate are as before, where 10_state.md R50 leaves them unspecified, is the model's
choice (log 3). -/
def Obligations.InitCreatesAFreshComputation : Prop :=
  ∀ (a : Alg) (s : State),
    exec (.init a) s = .next { s with eng := { s.eng with
      h := (match a with
        | .md5 => .md5 0x67452301#32 0xefcdab89#32 0x98badcfe#32 0x10325476#32
        | .sha1 => .sha1 0x67452301#32 0xefcdab89#32 0x98badcfe#32 0x10325476#32 0xc3d2e1f0#32),
      bitcount := 0#64, phase := .awaitingData, fault := .none, digest := [], hex := [], trace := [] } } ∧
    Phase.awaitingData.padPending = true ∧ Phase.awaitingData.fullyPadded = false

/-- The admission checks of ABSORB in their order; the first that applies decides (40_absorb_padding.md
R132). After a fault alg, the registers and the counter hold any value (60_exceptions.md R290, log 4); that
the ghost trace is kept then is the model's reading (log 25). -/
def Obligations.AbsorbAdmissionOrder : Prop :=
  ∀ (block : List Byte) (s : State),
    if s.eng.phase = .faulted then exec (.absorb block) s = .next s
    else if s.eng.phase = .idle then
      ∃ t, exec (.absorb block) s = .next t ∧ FaultEntry .noComputation s t
    else if 64 < block.length then
      ∃ t, exec (.absorb block) s = .next t ∧ FaultEntry .chunkTooLong s t
    else if s.eng.phase = .done then
      ∃ t, exec (.absorb block) s = .next t ∧ FaultEntry .absorbAfterDone s t
    else if s.eng.phase = .awaitingLengthBlock ∧ 0 < block.length then
      ∃ t, exec (.absorb block) s = .next t ∧ FaultEntry .nonemptyLengthBlock s t
    else if 2 ^ 64 - 1 < s.eng.bitcount.toNat + 8 * block.length then
      ∃ t, exec (.absorb block) s = .next t ∧ FaultEntry .lengthOverflow s t
    else ∃ t, exec (.absorb block) s = .next t ∧ t.eng.fault = s.eng.fault ∧
      t.eng.phase ≠ .faulted ∧ t.eng.trace.length = s.eng.trace.length + 1

/-- Each case of ABSORB is ABSORB on the lengths of the case, in every state (30_encoding.md R116,
40_absorb_padding.md R145 to R148; outside the case's phase by log 11). Both sides draw the same free values:
that is the model's choice (log 7). -/
def Obligations.AbsorbCasesAreAbsorb : Prop :=
  ∀ (block : List Byte) (s : State),
    (block.length = 64 → exec (.absorbFull block) s = exec (.absorb block) s) ∧
    (block.length ≤ 55 → exec (.absorbFinal block) s = exec (.absorb block) s) ∧
    (56 ≤ block.length ∧ block.length ≤ 63 → exec (.absorbSpill block) s = exec (.absorb block) s) ∧
    exec .absorbLength s = exec (.absorb []) s

/-- ABSORB.FULL: the block itself is compressed, the counter advances by 512, the phase stays, no digest
(40_absorb_padding.md R145, R134). That the case
and ABSORB draw the same free values is the model's choice (log 7). -/
def Obligations.FullBlockIsCompressedAsItIs : Prop :=
  ∀ (block : List Byte) (s : State),
    s.eng.phase = .awaitingData → block.length = 64 → s.eng.bitcount.toNat + 512 ≤ 2 ^ 64 - 1 →
    ∃ (t : State) (count : BitVec 64) (buf : Block),
      exec (.absorbFull block) s = .next t ∧ exec (.absorb block) s = .next t ∧
      count.toNat = s.eng.bitcount.toNat + 512 ∧
      (∀ (k : Nat) (h : k < 64), buf[k] = block.getD k 0#8) ∧
      Absorbed s t count buf .awaitingData s.eng.digest s.eng.hex

/-- ABSORB.FINAL: block, 0x80, zeros to offset 55, length field; the phase becomes DONE and the digest and
its rendering are stored (40_absorb_padding.md R146, 20_memory.md R77). That the case
and ABSORB draw the same free values is the model's choice (log 7). -/
def Obligations.FinalBlockEndsTheMessage : Prop :=
  ∀ (block : List Byte) (s : State),
    s.eng.phase = .awaitingData → block.length ≤ 55 →
    s.eng.bitcount.toNat + 8 * block.length ≤ 2 ^ 64 - 1 →
    ∃ (t : State) (count : BitVec 64) (buf : Block),
      exec (.absorbFinal block) s = .next t ∧ exec (.absorb block) s = .next t ∧
      count.toNat = s.eng.bitcount.toNat + 8 * block.length ∧
      (∀ (k : Nat) (h : k < 64), buf[k] =
        if k < block.length then block.getD k 0#8 else if k = block.length then 0x80#8
        else if k < 56 then 0#8 else lengthByte s.eng.h.alg count (k - 56)) ∧
      Absorbed s t count buf .done (Memory.ofList (serialize (compress s.eng.h buf)))
        (Memory.ofList (hexstr (serialize (compress s.eng.h buf))))

/-- ABSORB.SPILL: block, 0x80, zeros to offset 63; the phase becomes AWAITING_LENGTH_BLOCK, no digest
(40_absorb_padding.md R147, R139, 20_memory.md R77). That the case
and ABSORB draw the same free values is the model's choice (log 7). -/
def Obligations.SpillBlockLeavesTheLengthOwing : Prop :=
  ∀ (block : List Byte) (s : State),
    s.eng.phase = .awaitingData → 56 ≤ block.length → block.length ≤ 63 →
    s.eng.bitcount.toNat + 8 * block.length ≤ 2 ^ 64 - 1 →
    ∃ (t : State) (count : BitVec 64) (buf : Block),
      exec (.absorbSpill block) s = .next t ∧ exec (.absorb block) s = .next t ∧
      count.toNat = s.eng.bitcount.toNat + 8 * block.length ∧
      (∀ (k : Nat) (h : k < 64), buf[k] =
        if k < block.length then block.getD k 0#8 else if k = block.length then 0x80#8 else 0#8) ∧
      Absorbed s t count buf .awaitingLengthBlock s.eng.digest s.eng.hex

/-- ABSORB.LENGTH: 56 zero bytes and the length field, the counter unchanged; the phase becomes DONE and the
digest and its rendering are stored (40_absorb_padding.md R148, R140, 20_memory.md R77). That the case
and ABSORB draw the same free values is the model's choice (log 7). -/
def Obligations.LengthBlockEndsTheMessage : Prop :=
  ∀ s : State, s.eng.phase = .awaitingLengthBlock →
    ∃ (t : State) (buf : Block),
      exec .absorbLength s = .next t ∧ exec (.absorb []) s = .next t ∧
      (∀ (k : Nat) (h : k < 64), buf[k] =
        if k < 56 then 0#8 else lengthByte s.eng.h.alg s.eng.bitcount (k - 56)) ∧
      Absorbed s t s.eng.bitcount buf .done (Memory.ofList (serialize (compress s.eng.h buf)))
        (Memory.ofList (hexstr (serialize (compress s.eng.h buf))))

/-- ABORT: nothing in IDLE and FAULTED, otherwise fault entry with UPSTREAM_ABORT (60_exceptions.md R287,
R290). That fault entry keeps the ghost trace is the model's reading (log 25). -/
def Obligations.AbortAbandonsTheComputation : Prop :=
  ∀ s : State,
    (s.eng.phase = .idle ∨ s.eng.phase = .faulted → exec .abort s = .next s) ∧
    (s.eng.phase = .awaitingData ∨ s.eng.phase = .awaitingLengthBlock ∨ s.eng.phase = .done →
      ∃ t, exec .abort s = .next t ∧ FaultEntry .upstreamAbort s t)

/-- The padding state machine, complete: the phase and the fault code after each command
(40_absorb_padding.md R141). -/
def Obligations.PhaseTableHolds : Prop :=
  ∀ (s : State) (a : Alg) (block : List Byte),
    (∃ t, exec (.init a) s = .next t ∧ t.eng.phase = .awaitingData) ∧
    (∃ t, exec .abort s = .next t ∧ (t.eng.phase, t.eng.fault) =
      match s.eng.phase with
      | .idle => (.idle, s.eng.fault)
      | .faulted => (.faulted, s.eng.fault)
      | .awaitingData | .awaitingLengthBlock | .done => (.faulted, .upstreamAbort)) ∧
    (∃ t, exec (.absorb block) s = .next t ∧ (t.eng.phase, t.eng.fault) =
      match s.eng.phase with
      | .idle => (.faulted, .noComputation)
      | .faulted => (.faulted, s.eng.fault)
      | .done => if 64 < block.length then (.faulted, .chunkTooLong) else (.faulted, .absorbAfterDone)
      | .awaitingLengthBlock =>
        if 64 < block.length then (.faulted, .chunkTooLong)
        else if 0 < block.length then (.faulted, .nonemptyLengthBlock)
        else (.done, s.eng.fault)
      | .awaitingData =>
        if 64 < block.length then (.faulted, .chunkTooLong)
        else if 2 ^ 64 - 1 < s.eng.bitcount.toNat + 8 * block.length then (.faulted, .lengthOverflow)
        else if block.length = 64 then (.awaitingData, s.eng.fault)
        else if block.length ≤ 55 then (.done, s.eng.fault)
        else (.awaitingLengthBlock, s.eng.fault))

/-- FAULTED is sticky: every ABSORB, every ABORT and every reserved command word leaves the state unchanged
(the reserved word being taken from the inputs), and INIT leaves FAULTED (60_exceptions.md R291). The model's
choices in it: a case of ABSORB on a block outside its lengths is ignored too (log 11), a reserved word is
reserved whatever its payload (log 19), and the list of inputs and the addressing (log 8, 9). -/
def Obligations.FaultedIsSticky : Prop :=
  ∀ s : State, s.eng.phase = .faulted →
    (∀ block, exec (.absorb block) s = .next s ∧ exec (.absorbFull block) s = .next s ∧
      exec (.absorbFinal block) s = .next s ∧ exec (.absorbSpill block) s = .next s) ∧
    exec .absorbLength s = .next s ∧ exec .abort s = .next s ∧
    (∀ word payload, s.eng.useq = none → decodeCommand word payload = .reserved →
      step { s with pending := .command s.below.length word payload :: s.pending } = .next s) ∧
    (∀ a, ∃ t, exec (.init a) s = .next t ∧ t.eng.phase = .awaitingData ∧ t.eng.fault = .none)

/-- The counter of an accepted ABSORB grows by exactly eight times the block's length, so it never decreases
while a computation goes on (10_state.md R42, 40_absorb_padding.md R133). -/
def Obligations.CounterCountsMessageBits : Prop :=
  ∀ (block : List Byte) (s t : State),
    exec (.absorb block) s = .next t → t.eng.phase ≠ .faulted →
    t.eng.bitcount.toNat = s.eng.bitcount.toNat + 8 * block.length

/-- Two blocks of the same length lead to the same phase, fault code and number of compressions, and to the same
counter unless the phase is FAULTED, where it holds any value (60_exceptions.md R290): the message bytes decide
none of them (70_reset_and_hazards.md R346). That a fault keeps the ghost trace is the model's reading
(log 25). -/
def Obligations.MessageBytesDoNotSteer : Prop :=
  ∀ (b1 b2 : List Byte) (s t1 t2 : State), b1.length = b2.length →
    exec (.absorb b1) s = .next t1 → exec (.absorb b2) s = .next t2 →
    t1.eng.phase = t2.eng.phase ∧ t1.eng.fault = t2.eng.fault ∧
      (t1.eng.phase ≠ .faulted → t1.eng.bitcount = t2.eng.bitcount) ∧
      t1.eng.trace.length = t2.eng.trace.length ∧ t1.eng.useq = t2.eng.useq ∧
      (t1.eng.digest = [] ↔ t2.eng.digest = [])

/-! ## Micro-operations -/

/-- COUNT adds eight times the length of the input block to the counter, and changes nothing else
(40_absorb_padding.md R133). -/
def Obligations.CountAddsTheBlockBits : Prop :=
  ∀ (a : Alg) (s : State),
    exec (.count a) s = .next { s with eng := { s.eng with
      bitcount := BitVec.ofNat 64 (s.eng.bitcount.toNat + 8 * s.eng.work.block.length) } }

/-- PAD on a block of fewer than 64 bytes: with c the content so far, the length field is placed and `next` is
DONE when 64 - c is at least 8, otherwise the rest is zero and `next` is AWAITING_LENGTH_BLOCK
(40_absorb_padding.md R135 to R139). -/
def Obligations.PadBuildsTheTerminalBuffer : Prop :=
  ∀ (a : Alg) (s : State), s.eng.work.block.length < 64 →
    let n := s.eng.work.block.length
    let c := if s.eng.phase = .awaitingData then n + 1 else n
    ∃ (buf : Block) (next : Phase),
      exec (.pad a) s = .next { s with eng := { s.eng with
        work := { s.eng.work with buf := buf, next := next } } } ∧
      next = (if 8 ≤ 64 - c then .done else .awaitingLengthBlock) ∧
      (∀ (k : Nat) (h : k < 64), buf[k] =
        if k < n then s.eng.work.block.getD k 0#8
        else if k < c then 0x80#8
        else if 8 ≤ 64 - c ∧ 56 ≤ k then lengthByte s.eng.h.alg s.eng.bitcount (k - 56)
        else 0#8)

/-- LOAD.MD5, with its coordinate: `W[j]` is four buffer bytes, the first the least significant, and nothing
else changes (41_block_load_schedule.md R161). -/
def Obligations.LoadMd5IsLittleEndian : Prop :=
  ∀ (j : Fin 16) (s : State), decodeCoord (packCoord .md5 2#3 j.val) = .instr (.loadMd5 j) ∧ ∃ v : Word,
    exec (.loadMd5 j) s = .next { s with eng := { s.eng with
      work := { s.eng.work with w := s.eng.work.w.set j.val v } } } ∧
    v.toNat = s.eng.work.buf[4 * j.val].toNat + 2 ^ 8 * s.eng.work.buf[4 * j.val + 1].toNat +
      2 ^ 16 * s.eng.work.buf[4 * j.val + 2].toNat + 2 ^ 24 * s.eng.work.buf[4 * j.val + 3].toNat

/-- LOAD.SHA1, with its coordinate: `W[j]` is four buffer bytes, the first the most significant, and nothing
else changes (41_block_load_schedule.md R162). -/
def Obligations.LoadSha1IsBigEndian : Prop :=
  ∀ (j : Fin 16) (s : State), decodeCoord (packCoord .sha1 2#3 j.val) = .instr (.loadSha1 j) ∧ ∃ v : Word,
    exec (.loadSha1 j) s = .next { s with eng := { s.eng with
      work := { s.eng.work with w := s.eng.work.w.set j.val v } } } ∧
    v.toNat = 2 ^ 24 * s.eng.work.buf[4 * j.val].toNat + 2 ^ 16 * s.eng.work.buf[4 * j.val + 1].toNat +
      2 ^ 8 * s.eng.work.buf[4 * j.val + 2].toNat + s.eng.work.buf[4 * j.val + 3].toNat

/-- EXPAND.SHA1, with its coordinate: `W[t]` for t = 16 to 79 is the exclusive or of four earlier words
rotated left by 1 (41_block_load_schedule.md R164, 00_scope.md R16). -/
def Obligations.ExpandWritesTheRecurrence : Prop :=
  ∀ (t : Nat) (_ : 16 ≤ t) (_ : t < 80) (s : State),
    let x := wordAt s.eng.work.w (t - 3) ^^^ wordAt s.eng.work.w (t - 8) ^^^
      wordAt s.eng.work.w (t - 14) ^^^ wordAt s.eng.work.w (t - 16)
    decodeCoord (packCoord .sha1 3#3 t) = .instr (.expandSha1 ⟨t - 16, by omega⟩) ∧
    exec (.expandSha1 ⟨t - 16, by omega⟩) s = .next { s with eng := { s.eng with
      work := { s.eng.work with w := s.eng.work.w.set t (x <<< 1 ||| x >>> 31) } } }

/-- The rotation: its formula, the case n = 0, and where each bit goes (00_scope.md R16); the MD5 amounts lie
between 4 and 23 (42_md5_compression.md R184). -/
def Obligations.RotationMovesEveryBit : Prop :=
  (∀ (x : Word) (n : Nat), 0 < n → n < 32 → rotl32 x n = (x <<< n ||| x >>> (32 - n))) ∧
  (∀ x : Word, rotl32 x 0 = x) ∧
  (∀ (x : Word) (n k : Nat), n < 32 → k < 32 →
    (rotl32 x n).getLsbD ((k + n) % 32) = x.getLsbD k) ∧
  (∀ i : Nat, i < 64 → 4 ≤ md5Shift i ∧ md5Shift i ≤ 23)

/-- The 64 literals of CONST (42_md5_compression.md R183), the 64 amounts of SHIFT (R184), and the four MD5
round micro-operations, with their coordinates: f by the function of the range, then the datapath; nothing but
f and the accumulators a to d changes (R186 to R190). -/
def Obligations.Md5RoundMicroOperations : Prop :=
  (List.range 64).map md5Const =
    [0xd76aa478#32, 0xe8c7b756#32, 0x242070db#32, 0xc1bdceee#32,
     0xf57c0faf#32, 0x4787c62a#32, 0xa8304613#32, 0xfd469501#32,
     0x698098d8#32, 0x8b44f7af#32, 0xffff5bb1#32, 0x895cd7be#32,
     0x6b901122#32, 0xfd987193#32, 0xa679438e#32, 0x49b40821#32] ++
    [0xf61e2562#32, 0xc040b340#32, 0x265e5a51#32, 0xe9b6c7aa#32,
     0xd62f105d#32, 0x02441453#32, 0xd8a1e681#32, 0xe7d3fbc8#32,
     0x21e1cde6#32, 0xc33707d6#32, 0xf4d50d87#32, 0x455a14ed#32,
     0xa9e3e905#32, 0xfcefa3f8#32, 0x676f02d9#32, 0x8d2a4c8a#32] ++
    [0xfffa3942#32, 0x8771f681#32, 0x6d9d6122#32, 0xfde5380c#32,
     0xa4beea44#32, 0x4bdecfa9#32, 0xf6bb4b60#32, 0xbebfbc70#32,
     0x289b7ec6#32, 0xeaa127fa#32, 0xd4ef3085#32, 0x04881d05#32,
     0xd9d4d039#32, 0xe6db99e5#32, 0x1fa27cf8#32, 0xc4ac5665#32] ++
    [0xf4292244#32, 0x432aff97#32, 0xab9423a7#32, 0xfc93a039#32,
     0x655b59c3#32, 0x8f0ccc92#32, 0xffeff47d#32, 0x85845dd1#32,
     0x6fa87e4f#32, 0xfe2ce6e0#32, 0xa3014314#32, 0x4e0811a1#32,
     0xf7537e82#32, 0xbd3af235#32, 0x2ad7d2bb#32, 0xeb86d391#32] ∧
  (List.range 64).map md5Shift =
    [7, 12, 17, 22, 7, 12, 17, 22, 7, 12, 17, 22, 7, 12, 17, 22,
     5, 9, 14, 20, 5, 9, 14, 20, 5, 9, 14, 20, 5, 9, 14, 20,
     4, 11, 16, 23, 4, 11, 16, 23, 4, 11, 16, 23, 4, 11, 16, 23,
     6, 10, 15, 21, 6, 10, 15, 21, 6, 10, 15, 21, 6, 10, 15, 21] ∧
  ∀ (s : State) (r : Fin 16),
    let x := s.eng.work.acc
    let after := fun (i g : Nat) (f : Word) => { s with eng := { s.eng with work := { s.eng.work with
      f := f
      acc := { a := x.d
               b := x.b + rotl32 (f + x.a + md5Const i + wordAt s.eng.work.w g) (md5Shift i)
               c := x.b
               d := x.c
               e := x.e } } } }
    decodeCoord (packCoord .md5 4#3 r.val) = .instr (.md5F r) ∧
    decodeCoord (packCoord .md5 4#3 (16 + r.val)) = .instr (.md5G r) ∧
    decodeCoord (packCoord .md5 4#3 (32 + r.val)) = .instr (.md5H r) ∧
    decodeCoord (packCoord .md5 4#3 (48 + r.val)) = .instr (.md5I r) ∧
    exec (.md5F r) s = .next (after r.val r.val ((x.b &&& x.c) ||| (~~~x.b &&& x.d))) ∧
    exec (.md5G r) s = .next (after (16 + r.val) ((5 * (16 + r.val) + 1) % 16)
      ((x.d &&& x.b) ||| (~~~x.d &&& x.c))) ∧
    exec (.md5H r) s = .next (after (32 + r.val) ((3 * (32 + r.val) + 5) % 16) (x.b ^^^ x.c ^^^ x.d)) ∧
    exec (.md5I r) s = .next (after (48 + r.val) (7 * (48 + r.val) % 16) (x.c ^^^ (x.b ||| ~~~x.d)))

/-- The four SHA-1 round micro-operations, with their coordinates: f by the function of the range, temp the
five-term sum with the round constant of the range, then the new accumulators; nothing but f, temp and the
accumulators changes (43_sha1_compression.md R212 to R217). -/
def Obligations.Sha1RoundMicroOperations : Prop :=
  ∀ (s : State) (r : Fin 20),
    let x := s.eng.work.acc
    let temp := fun (i : Nat) (f k : Word) => rotl32 x.a 5 + f + x.e + k + wordAt s.eng.work.w i
    let after := fun (i : Nat) (f k : Word) => { s with eng := { s.eng with work := { s.eng.work with
      f := f
      temp := temp i f k
      acc := { a := temp i f k, b := x.a, c := rotl32 x.b 30, d := x.c, e := x.d } } } }
    decodeCoord (packCoord .sha1 4#3 r.val) = .instr (.sha1Ch r) ∧
    decodeCoord (packCoord .sha1 4#3 (20 + r.val)) = .instr (.sha1Par1 r) ∧
    decodeCoord (packCoord .sha1 4#3 (40 + r.val)) = .instr (.sha1Maj r) ∧
    decodeCoord (packCoord .sha1 4#3 (60 + r.val)) = .instr (.sha1Par2 r) ∧
    exec (.sha1Ch r) s = .next (after r.val ((x.b &&& x.c) ||| (~~~x.b &&& x.d)) 0x5a827999#32) ∧
    exec (.sha1Par1 r) s = .next (after (20 + r.val) (x.b ^^^ x.c ^^^ x.d) 0x6ed9eba1#32) ∧
    exec (.sha1Maj r) s = .next (after (40 + r.val)
      ((x.b &&& x.c) ||| (x.b &&& x.d) ||| (x.c &&& x.d)) 0x8f1bbcdc#32) ∧
    exec (.sha1Par2 r) s = .next (after (60 + r.val) (x.b ^^^ x.c ^^^ x.d) 0xca62c1d6#32)

/-- FEEDFWD.MD5, with its coordinate, adds accumulator r to register r, modulo 2^32, and changes nothing else
(42_md5_compression.md R192). -/
def Obligations.FeedForwardMd5AddsOneRegister : Prop :=
  ∀ (r : Fin 4) (s : State), decodeCoord (packCoord .md5 5#3 r.val) = .instr (.feedfwdMd5 r) ∧ ∃ h : Regs,
    exec (.feedfwdMd5 r) s = .next { s with eng := { s.eng with h := h } } ∧
    h.alg = s.eng.h.alg ∧
    ∀ q : Nat, h.get q =
      (s.eng.h.get q).map fun v =>
        if q = r.val then BitVec.ofNat 32 (v.toNat + (s.eng.work.acc.get q).toNat) else v

/-- FEEDFWD.SHA1, with its coordinate, adds accumulator r to register r, modulo 2^32, and changes nothing else,
wherever the register exists (43_sha1_compression.md R219, 10_state.md R32). -/
def Obligations.FeedForwardSha1AddsOneRegister : Prop :=
  ∀ (r : Fin 5) (s : State), (r.val < 4 ∨ s.eng.h.alg = .sha1) →
    decodeCoord (packCoord .sha1 5#3 r.val) = .instr (.feedfwdSha1 r) ∧ ∃ h : Regs,
    exec (.feedfwdSha1 r) s = .next { s with eng := { s.eng with h := h } } ∧
    h.alg = s.eng.h.alg ∧
    ∀ q : Nat, h.get q =
      (s.eng.h.get q).map fun v =>
        if q = r.val then BitVec.ofNat 32 (v.toNat + (s.eng.work.acc.get q).toNat) else v

/-- FORMAT.MD5 stores the four bytes of register r at 4r, the least significant first, and their rendering at
8r; every other address of the two stores reads as before and nothing else changes
(44_digest_formatter.md R241, R244; the addresses 20_memory.md R70; that FORMAT writes the characters too is
log 14). -/
def Obligations.FormatMd5StoresOneRegister : Prop :=
  ∀ (r : Fin 4) (s : State), ∃ (v : Word) (digest : Memory Byte) (hex : Memory Char),
    s.eng.h.get r.val = some v ∧
    exec (.formatMd5 r) s = .next { s with eng := { s.eng with digest := digest, hex := hex } } ∧
    (∀ k : Nat, digest.read k =
      if 4 * r.val ≤ k ∧ k < 4 * r.val + 4 then some (v.extractLsb' (8 * (k - 4 * r.val)) 8)
      else s.eng.digest.read k) ∧
    (∀ k : Nat, hex.read k =
      if 8 * r.val ≤ k ∧ k < 8 * r.val + 8 then
        some (hexDigit (v.extractLsb' (8 * ((k - 8 * r.val) / 2) + 4 * (1 - k % 2)) 4))
      else s.eng.hex.read k)

/-- FORMAT.SHA1 stores the four bytes of register r at 4r, the most significant first, and their rendering at
8r, wherever the register exists; every other address of the two stores reads as before and nothing else
changes (44_digest_formatter.md R242, R244; the addresses 20_memory.md R70; that FORMAT writes the characters
too is log 14). -/
def Obligations.FormatSha1StoresOneRegister : Prop :=
  ∀ (r : Fin 5) (s : State), (r.val < 4 ∨ s.eng.h.alg = .sha1) →
    ∃ (v : Word) (digest : Memory Byte) (hex : Memory Char),
    s.eng.h.get r.val = some v ∧
    exec (.formatSha1 r) s = .next { s with eng := { s.eng with digest := digest, hex := hex } } ∧
    (∀ k : Nat, digest.read k =
      if 4 * r.val ≤ k ∧ k < 4 * r.val + 4 then some (v.extractLsb' (8 * (3 - (k - 4 * r.val))) 8)
      else s.eng.digest.read k) ∧
    (∀ k : Nat, hex.read k =
      if 8 * r.val ≤ k ∧ k < 8 * r.val + 8 then
        some (hexDigit (v.extractLsb' (8 * (3 - (k - 8 * r.val) / 2) + 4 * (1 - k % 2)) 4))
      else s.eng.hex.read k)

/-- Register E does not exist when `alg` is MD5: it cannot be read, compression keeps it so, and the two
micro-operations that would touch it stop (10_state.md R32; the stop is the model's, log 15). -/
def Obligations.RegisterEDoesNotExistForMd5 : Prop :=
  ∀ s : State, s.eng.h.alg = .md5 →
    s.eng.h.get 4 = none ∧ (∀ buf, (compress s.eng.h buf).get 4 = none) ∧
    (serialize s.eng.h).length = 16 ∧
    exec (.feedfwdSha1 4) s = .fault .noRegisterE ∧ exec (.formatSha1 4) s = .fault .noRegisterE

/-- The order of the micro-operations: starting an accepted ABSORB of n bytes, the coordinate runs through the
sequence of 10_state.md R45, which depends on `alg` and n alone (70_reset_and_hazards.md R346), and then has no
value. -/
def Obligations.SequencerFollowsTheOrder : Prop :=
  ∀ (s : State) (block : List Byte) (k : Nat), s.eng.Accepts block.length →
    k ≤ (useqOrder s.eng.h.alg block.length).length →
    ∃ t : State, Sys2Proof.core.run k (s.begun block) = .next t ∧
      t.eng.useq = (useqOrder s.eng.h.alg block.length)[k]?

/-- The micro-operations, run one by one, compute what ABSORB computes: after the last of them the machine is
in exactly the state in which the atomic ABSORB leaves it (00_scope.md R20; that the sequencer can be
stepped is the model's, log 10, and so is that both draw the same free values, log 7). -/
def Obligations.MicroOperationsRefineAbsorb : Prop :=
  ∀ (s : State) (block : List Byte), s.eng.Accepts block.length → s.eng.digest = [] → s.eng.hex = [] →
    Sys2Proof.core.run (useqOrder s.eng.h.alg block.length).length (s.begun block) =
      exec (.absorb block) s

/-! ## Data -/

/-- The endian mux: which byte of a register goes to which position of the digest, the same choice for the
word load and the length field, by `alg` alone (44_digest_formatter.md R243). -/
def Obligations.OneEndianMuxServesAll : Prop :=
  (∀ (h : Regs) (r p : Nat) (v : Word), p < 4 → h.get r = some v →
    (serialize h)[4 * r + p]? =
      some (v.extractLsb' (8 * (match h.alg with | .md5 => p | .sha1 => 3 - p)) 8)) ∧
  (∀ (buf : Block) (j : Fin 16) (p : Nat) (hp : p < 4),
    (md5Word buf j).extractLsb' (8 * p) 8 = buf[4 * j.val + p] ∧
    (sha1Word buf j).extractLsb' (8 * (3 - p)) 8 = buf[4 * j.val + p]) ∧
  (∀ (a : Alg) (count : BitVec 64) (p : Nat), p < 8 →
    (lengthField a count)[p]? =
      some (count.extractLsb' (8 * (match a with | .md5 => p | .sha1 => 7 - p)) 8))

/-- Where the length lands in the schedule of a length-bearing block (41_block_load_schedule.md R166). -/
def Obligations.LengthLandsInTheLastTwoWords : Prop :=
  ∀ (buf : Block) (count : BitVec 64),
    ((∀ (j : Nat) (h : j < 8), buf[56 + j] = lengthByte .md5 count j) →
      md5Word buf 14 = count.extractLsb' 0 32 ∧ md5Word buf 15 = count.extractLsb' 32 32) ∧
    ((∀ (j : Nat) (h : j < 8), buf[56 + j] = lengthByte .sha1 count j) →
      sha1Word buf 14 = count.extractLsb' 32 32 ∧ sha1Word buf 15 = count.extractLsb' 0 32) ∧
    (count.toNat < 8 * 2 ^ 29 → count.extractLsb' 32 32 = 0#32)

/-- The hex rendering: two characters a byte, high nibble first, every character one of HEXDIGIT, and the fixed
lengths 16 and 32, 20 and 40 (44_digest_formatter.md R244, R245). -/
def Obligations.HexRenderingIsFixedAndLowercase : Prop :=
  (∀ (bytes : List Byte) (k : Nat) (b : Byte), bytes[k]? = some b →
    (hexstr bytes)[2 * k]? = "0123456789abcdef".toList[(b.toNat / 16)]? ∧
    (hexstr bytes)[2 * k + 1]? = "0123456789abcdef".toList[(b.toNat % 16)]?) ∧
  (∀ bytes : List Byte, (hexstr bytes).length = 2 * bytes.length ∧
    ∀ c ∈ hexstr bytes, c ∈ "0123456789abcdef".toList) ∧
  (∀ h : Regs, (serialize h).length = Config.digestBytes h.alg ∧
    (hexstr (serialize h)).length = Config.hexChars h.alg)

/-- The schedule index of MD5: the list of 42_md5_compression.md R185, each value once in each group of 16. -/
def Obligations.ScheduleIndexIsTheListedPermutation : Prop :=
  (List.range 64).map (fun i => (md5Index i).val) =
    [0, 1, 2, 3, 4, 5, 6, 7, 8, 9, 10, 11, 12, 13, 14, 15,
     1, 6, 11, 0, 5, 10, 15, 4, 9, 14, 3, 8, 13, 2, 7, 12,
     5, 8, 11, 14, 1, 4, 7, 10, 13, 0, 3, 6, 9, 12, 15, 2,
     0, 7, 14, 5, 12, 3, 10, 1, 8, 15, 6, 13, 4, 11, 2, 9] ∧
  ∀ g : Nat, g < 4 → ∀ v : Nat, v < 16 →
    ((List.range 16).map fun k => (md5Index (16 * g + k)).val).count v = 1

/-! ## What the host reads -/

/-- The STATUS word bit by bit, ALG being `alg` while a computation exists and any value in IDLE and FAULTED
(10_state.md R48, R37, R38, R36; 60_exceptions.md R281). -/
def Obligations.StatusWordLayout : Prop :=
  ∀ (s : State) (k : Nat) (e : Engine), s.engines[k]? = some e → e.useq = none →
    ∃ (v : BitVec 32) (algBit : Nat), s.readStatus k = some v ∧
      v.toNat = (match e.phase with
          | .idle => 0 | .awaitingData => 1 | .awaitingLengthBlock => 2 | .done => 3 | .faulted => 4) +
        8 * (if e.phase = .awaitingData then 1 else 0) + 16 * (if e.phase = .done then 1 else 0) +
        32 * (match e.fault with
          | .none => 0 | .chunkTooLong => 1 | .absorbAfterDone => 2 | .nonemptyLengthBlock => 3
          | .noComputation => 4 | .lengthOverflow => 5 | .upstreamAbort => 6 | .badCommand => 7) +
        256 * algBit ∧
      algBit < 2 ∧
      (e.phase ≠ .idle → e.phase ≠ .faulted → algBit = match e.h.alg with | .md5 => 0 | .sha1 => 1)

/-- The host reads digest and hex in DONE and in no other phase; between commands what it reads in DONE is the
serialised registers and their rendering, and the counter and the registers are readable while a
computation exists (10_state.md R43, R48, R51; 70_reset_and_hazards.md R337). -/
def Obligations.DigestIsReadableExactlyInDone : Prop :=
  ∀ (s : State) (k : Nat) (e : Engine), s.engines[k]? = some e → e.BetweenCommands →
    (e.phase ≠ .done → ∀ j, s.readDigest k j = none ∧ s.readHex k j = none) ∧
    (e.phase = .done → ∀ j, s.readDigest k j = (serialize e.h)[j]? ∧
      s.readHex k j = (hexstr (serialize e.h))[j]?) ∧
    (e.phase = .idle ∨ e.phase = .faulted → s.readBitcount k = none ∧ ∀ r, s.readReg k r = none) ∧
    (e.phase = .awaitingData ∨ e.phase = .awaitingLengthBlock ∨ e.phase = .done →
      s.readBitcount k = some e.bitcount ∧ ∀ r, s.readReg k r = e.h.words[r]?)

/-! ## Invariants -/

/-- Every step keeps the invariants between commands, whatever command is taken, on every instance
(10_state.md R51). -/
def Obligations.StepKeepsBetweenCommands : Prop :=
  ∀ s t : State, s.BetweenCommands → step s = .next t → t.BetweenCommands

/-- Every step keeps the registers equal to the initial values with every compressed buffer fed in, oldest
first (42_md5_compression.md R193, 43_sha1_compression.md R220, 10_state.md R33). -/
def Obligations.StepKeepsTheChain : Prop :=
  ∀ s t : State, s.Chained → step s = .next t → t.Chained

/-- Every step keeps this: the buffers compressed by a computation in progress are the padding of some
message whose bits the counter counts; in DONE they are the whole padded message
(40_absorb_padding.md R133 to R140, R143). -/
def Obligations.StepKeepsTracesOfMessages : Prop :=
  ∀ s t : State, s.TracesMessages → step s = .next t → t.TracesMessages

/-- Every step, inside an ABSORB too, keeps the digest and hex stores in canonical form (the form is the
model's, log 23; 20_memory.md R70). -/
def Obligations.StepKeepsStoresCanonical : Prop :=
  ∀ s t : State, s.StoresCanonical → step s = .next t → t.StoresCanonical

/-- Every step keeps the number of instances and the index of each (60_exceptions.md R299; the fields are the
model's, log 7, 8). -/
def Obligations.StepKeepsTheInstances : Prop :=
  ∀ s t : State, step s = .next t →
    t.engines.length = s.engines.length ∧ (s.Indexed → t.Indexed)

/-- What reset leaves, for any number of instances: IDLE, no fault, both flags false, digest and hex absent,
the sequencer at rest (10_state.md R50, 70_reset_and_hazards.md R320); and the invariants of the model hold
there. -/
def Obligations.ResetSatisfiesTheInvariants : Prop :=
  State.reset = State.resetWith Config.moreInstances ∧
  ∀ more : Nat,
    (State.resetWith more).engines.length = more + 1 ∧
    (∀ e ∈ (State.resetWith more).engines, e.phase = .idle ∧ e.phase.padPending = false ∧
      e.phase.fullyPadded = false ∧ e.fault = .none ∧ e.digest = [] ∧ e.hex = [] ∧ e.useq = none) ∧
    (State.resetWith more).BetweenCommands ∧ (State.resetWith more).Chained ∧
    (State.resetWith more).TracesMessages ∧ (State.resetWith more).StoresCanonical ∧
    (State.resetWith more).Indexed

/-- No instruction but INIT, ABSORB, ABORT and the feed-forward changes the chaining registers of any instance
(10_state.md R33; ABORT because fault entry leaves them unspecified, 60_exceptions.md R290). -/
def Obligations.OnlyTheNamedInstructionsWriteRegisters : Prop :=
  ∀ (i : Instr) (s t : State), mayWriteRegs i = false → exec i s = .next t →
    t.eng.h = s.eng.h ∧ t.engines.map Engine.h = s.engines.map Engine.h

/-- Commands to different instances commute: in either order every instance ends the same
(20_memory.md R83, 60_exceptions.md R299). That both orders draw the same free values is the model's choice
(log 7). -/
def Obligations.InstancesCommute : Prop :=
  ∀ (s t : State) (k l : Nat) (w1 w2 : BitVec 16) (p1 p2 : List Byte), s.AtRest → k ≠ l →
    Sys2Proof.core.run 2 { s with pending := [.command k w1 p1, .command l w2 p2] } = .next t →
    ∃ u : State,
      Sys2Proof.core.run 2 { s with pending := [.command l w2 p2, .command k w1 p1] } = .next u ∧
      u.engines = t.engines

/-! ## Messages -/

/-- An accepted ABSORB appends its block to the message absorbed, and the buffers compressed stay those that
the padding rules make of it (40_absorb_padding.md R133 to R140, R106). -/
def Obligations.AbsorbExtendsTheMessage : Prop :=
  ∀ (s : State) (m block : List Byte), s.eng.HasAbsorbed m → s.eng.Accepts block.length →
    ∃ t, exec (.absorb block) s = .next t ∧ t.eng.HasAbsorbed (m ++ block)

/-- The Slice Driver ends in DONE with the digest of the message, its rendering, and the padded message as the
buffers compressed, from any state (40_absorb_padding.md R143, 45_driver_protocol.md R261, R267). -/
def Obligations.SliceDriverYieldsTheDigest : Prop :=
  ∀ (a : Alg) (m : List Byte) (s : State), 8 * m.length ≤ 2 ^ 64 - 1 →
    ∃ t, sliceDriver a m s = .next t ∧ t.eng.phase = .done ∧ t.eng.fault = .none ∧
      t.eng.h = messageRegs a m ∧ t.eng.bitcount.toNat = 8 * m.length ∧
      t.eng.digest = Memory.ofList (messageDigest a m) ∧
      t.eng.hex = Memory.ofList (hexstr (messageDigest a m)) ∧
      t.eng.trace = blocksOf (paddedMessage a m) ∧
      t.below = s.below ∧ t.above = s.above ∧ t.pending = s.pending

/-- How many compressions a message takes: one more than its full blocks, two more when 56 to 63 bytes remain.
So many buffers the engine has compressed when the Slice Driver has run, from any state, and so many blocks the
padded message has (40_absorb_padding.md R144; the count is read from the trace, 60_exceptions.md R312). -/
def Obligations.NumberOfCompressions : Prop :=
  ∀ (a : Alg) (m : List Byte),
    let count := if m.length % 64 ≤ 55 then m.length / 64 + 1 else m.length / 64 + 2
    (8 * m.length ≤ 2 ^ 64 - 1 → ∀ s : State,
      ∃ t, sliceDriver a m s = .next t ∧ t.eng.trace.length = count) ∧
    (paddedMessage a m).length % 64 = 0 ∧ (blocksOf (paddedMessage a m)).length = count

/-- The Stream Driver, fed the reads that the Slice Driver would take, does what the Slice Driver does,
whatever the source would deliver afterwards (45_driver_protocol.md R263, R266). That both draw the same free
values is the model's choice (log 7). -/
def Obligations.StreamDriverAgreesWithSliceDriver : Prop :=
  ∀ (a : Alg) (m : List Byte) (later : List (Option (List Byte))) (s : State),
    streamDriver a ((sliceBlocks m).map some ++ later) s = sliceDriver a m s

/-- A read error leaves the Stream Driver's engine FAULTED with UPSTREAM_ABORT and no digest
(45_driver_protocol.md R263, R267). -/
def Obligations.ReadErrorLeavesNoDigest : Prop :=
  ∀ (a : Alg) (full : List (List Byte)) (later : List (Option (List Byte))) (s : State),
    (∀ block ∈ full, block.length = 64) → 512 * full.length ≤ 2 ^ 64 - 1 →
    ∃ t, streamDriver a (full.map some ++ none :: later) s = .next t ∧
      t.eng.phase = .faulted ∧ t.eng.fault = .upstreamAbort ∧ t.eng.digest = [] ∧ t.eng.hex = []
end

