-- ==== Sys2Proof/Laws/Memory.lean ====
section
/-! SUPPORT. The sparse stores: reads after writes, and the canonical form. -/

namespace Sys2Proof.Machine

variable {α : Type}

@[simp] theorem Memory.read_nil (a : Nat) : Memory.read ([] : Memory α) a = none := rfl

@[simp] theorem Memory.wf_nil : Memory.wf ([] : Memory α) = true := rfl

@[simp] theorem Memory.wf_cons_cons (k l : Nat) (x y : α) (rest : Memory α) :
    Memory.wf ((k, x) :: (l, y) :: rest) = (decide (k < l) && Memory.wf ((l, y) :: rest)) := rfl

/-- What is in canonical form stays so without its first entry. -/
theorem Memory.wf_tail {k : Nat} {x : α} {rest : Memory α} (h : Memory.wf ((k, x) :: rest) = true) :
    Memory.wf rest = true := by
  cases rest with
  | nil => rfl
  | cons p rest => obtain ⟨l, y⟩ := p; simp at h; exact h.2

/-- A read after a write to the same address gives the datum written. -/
theorem Memory.read_write_same (m : Memory α) (a : Nat) (v : α) : (m.write a v).read a = some v := by
  induction m with
  | nil => simp [Memory.write, Memory.read]
  | cons p rest ih =>
    obtain ⟨k, x⟩ := p
    by_cases h1 : a < k
    · simp [Memory.write, Memory.read, h1]
    · by_cases h2 : a = k
      · simp [Memory.write, Memory.read, h2]
      · have h3 : ¬ k = a := fun h => h2 h.symm
        simp [Memory.write, Memory.read, h1, h2, h3, ih]

/-- A write leaves every other address alone. -/
theorem Memory.read_write_other (m : Memory α) {a b : Nat} (v : α) (hab : b ≠ a) :
    (m.write a v).read b = m.read b := by
  have hba : ¬ a = b := fun h => hab h.symm
  induction m with
  | nil => simp [Memory.write, Memory.read, hba]
  | cons p rest ih =>
    obtain ⟨k, x⟩ := p
    by_cases h1 : a < k
    · simp [Memory.write, Memory.read, h1, hba]
    · by_cases h2 : a = k
      · subst h2; simp [Memory.write, Memory.read, hba]
      · simp [Memory.write, Memory.read, h1, h2, ih]

/-- The first address of a store after a write. -/
theorem Memory.wf_cons_write {k a : Nat} {x : α} (v : α) (m : Memory α) (hka : k < a)
    (h : Memory.wf ((k, x) :: m) = true) (hw : Memory.wf (m.write a v) = true) :
    Memory.wf ((k, x) :: m.write a v) = true := by
  cases m with
  | nil => simp [Memory.write, hka, Memory.wf]
  | cons p rest =>
    obtain ⟨l, y⟩ := p
    simp only [Memory.write] at hw ⊢
    simp at h
    split at hw
    · next h1 => simp only [h1, ↓reduceIte]; simp_all
    · next h1 =>
      split at hw
      · next h2 => simp only [h2, ↓reduceIte]; simp_all
      · next h2 =>
        simp only [h1, h2, ↓reduceIte] at hw ⊢
        simp [h.1, Memory.wf, hw]

/-- A write keeps the canonical form. -/
theorem Memory.write_keeps_wf (m : Memory α) (a : Nat) (v : α) (h : m.wf = true) :
    (m.write a v).wf = true := by
  induction m with
  | nil => simp [Memory.write, Memory.wf]
  | cons p rest ih =>
    obtain ⟨k, x⟩ := p
    have hr := ih (Memory.wf_tail h)
    by_cases h1 : a < k
    · simp [Memory.write, h1, h]
    · by_cases h2 : a = k
      · subst h2
        cases rest with
        | nil => simp [Memory.write, Memory.wf]
        | cons q rest => obtain ⟨l, y⟩ := q; simpa [Memory.write] using h
      · have h3 : k < a := by omega
        have := Memory.wf_cons_write v rest h3 h hr
        simpa [Memory.write, h1, h2] using this

/-- Writes of consecutive addresses keep the canonical form. -/
theorem Memory.writeList_keeps_wf (values : List α) (m : Memory α) (a : Nat) (h : m.wf = true) :
    (m.writeList a values).wf = true := by
  induction values generalizing m a with
  | nil => exact h
  | cons v rest ih => exact ih _ _ (Memory.write_keeps_wf m a v h)

/-- The store of a list is in canonical form. -/
theorem Memory.ofList_wf (values : List α) : (Memory.ofList values).wf = true :=
  Memory.writeList_keeps_wf values [] 0 rfl

/-- Everything a write of consecutive addresses does: the listed data at their addresses, every other address as
before. -/
theorem Memory.read_writeList (values : List α) (m : Memory α) (a b : Nat) :
    (m.writeList a values).read b =
      if a ≤ b ∧ b < a + values.length then values[b - a]? else m.read b := by
  induction values generalizing m a with
  | nil => simp [Memory.writeList]
  | cons v rest ih =>
    simp only [Memory.writeList, ih, List.length_cons]
    by_cases hb : b = a
    · subst hb
      simp [Memory.read_write_same]
    · rw [Memory.read_write_other m v hb]
      by_cases hin : a + 1 ≤ b ∧ b < a + 1 + rest.length
      · have h2 : a ≤ b ∧ b < a + (rest.length + 1) := by omega
        have h3 : b - a = (b - (a + 1)) + 1 := by omega
        simp [hin, h2, h3]
      · have h2 : ¬ (a ≤ b ∧ b < a + (rest.length + 1)) := by omega
        rw [if_neg hin, if_neg h2]

/-- Read of the store of a list. -/
theorem Memory.read_ofList (values : List α) (b : Nat) : (Memory.ofList values).read b = values[b]? := by
  rw [Memory.ofList, Memory.read_writeList]
  by_cases h : b < values.length
  · simp [h]
  · simp [h]

end Sys2Proof.Machine
end

