-- ==== Sys2Proof/Laws/State.lean ====
section
/-! SUPPORT. One lemma per field per update of the state, true by `rfl`. -/

namespace Sys2Proof.Machine

variable (s : State) (e e' : Engine) (c : FaultCode) (a : Alg)

@[simp] theorem State.withEng_eng : (s.withEng e).eng = e := rfl
@[simp] theorem State.withEng_below : (s.withEng e).below = s.below := rfl
@[simp] theorem State.withEng_above : (s.withEng e).above = s.above := rfl
@[simp] theorem State.withEng_pending : (s.withEng e).pending = s.pending := rfl
@[simp] theorem State.withEng_withEng : (s.withEng e).withEng e' = s.withEng e' := rfl
@[simp] theorem State.withEng_self : s.withEng s.eng = s := rfl
@[simp] theorem State.withEng_engines : (s.withEng e).engines = s.below ++ e :: s.above := rfl

@[simp] theorem Engine.raise_phase : (e.raise c).phase = .faulted := rfl
@[simp] theorem Engine.raise_fault : (e.raise c).fault = c := rfl
@[simp] theorem Engine.raise_digest : (e.raise c).digest = [] := rfl
@[simp] theorem Engine.raise_hex : (e.raise c).hex = [] := rfl
@[simp] theorem Engine.raise_inst : (e.raise c).inst = e.inst := rfl
@[simp] theorem Engine.raise_useq : (e.raise c).useq = e.useq := rfl
@[simp] theorem Engine.raise_work : (e.raise c).work = e.work := rfl
@[simp] theorem Engine.raise_trace : (e.raise c).trace = e.trace := rfl
@[simp] theorem Engine.raise_draws : (e.raise c).draws = e.draws + 1 := rfl

@[simp] theorem Engine.create_phase : (e.create a).phase = .awaitingData := rfl
@[simp] theorem Engine.create_fault : (e.create a).fault = .none := rfl
@[simp] theorem Engine.create_h : (e.create a).h = Regs.initial a := rfl
@[simp] theorem Engine.create_bitcount : (e.create a).bitcount = 0#64 := rfl
@[simp] theorem Engine.create_digest : (e.create a).digest = [] := rfl
@[simp] theorem Engine.create_hex : (e.create a).hex = [] := rfl
@[simp] theorem Engine.create_trace : (e.create a).trace = [] := rfl
@[simp] theorem Engine.create_inst : (e.create a).inst = e.inst := rfl
@[simp] theorem Engine.create_useq : (e.create a).useq = e.useq := rfl
@[simp] theorem Engine.create_work : (e.create a).work = e.work := rfl
@[simp] theorem Engine.create_draws : (e.create a).draws = e.draws := rfl

@[simp] theorem Engine.format_phase : e.format.phase = e.phase := rfl
@[simp] theorem Engine.format_fault : e.format.fault = e.fault := rfl
@[simp] theorem Engine.format_h : e.format.h = e.h := rfl
@[simp] theorem Engine.format_bitcount : e.format.bitcount = e.bitcount := rfl
@[simp] theorem Engine.format_digest : e.format.digest = Memory.ofList (serialize e.h) := rfl
@[simp] theorem Engine.format_hex : e.format.hex = Memory.ofList (hexstr (serialize e.h)) := rfl
@[simp] theorem Engine.format_trace : e.format.trace = e.trace := rfl
@[simp] theorem Engine.format_inst : e.format.inst = e.inst := rfl
@[simp] theorem Engine.format_useq : e.format.useq = e.useq := rfl
@[simp] theorem Engine.format_work : e.format.work = e.work := rfl
@[simp] theorem Engine.format_draws : e.format.draws = e.draws := rfl

variable (buf : Block)

@[simp] theorem Engine.retire_phase : (e.retire buf).phase = e.phase := rfl
@[simp] theorem Engine.retire_fault : (e.retire buf).fault = e.fault := rfl
@[simp] theorem Engine.retire_h : (e.retire buf).h = e.h := rfl
@[simp] theorem Engine.retire_bitcount : (e.retire buf).bitcount = e.bitcount := rfl
@[simp] theorem Engine.retire_digest : (e.retire buf).digest = e.digest := rfl
@[simp] theorem Engine.retire_hex : (e.retire buf).hex = e.hex := rfl
@[simp] theorem Engine.retire_trace : (e.retire buf).trace = e.trace ++ [buf] := rfl
@[simp] theorem Engine.retire_inst : (e.retire buf).inst = e.inst := rfl
@[simp] theorem Engine.retire_useq : (e.retire buf).useq = none := rfl
@[simp] theorem Engine.retire_draws : (e.retire buf).draws = e.draws + 1 := rfl

@[simp] theorem Engine.hardReset_inst : e.hardReset.inst = e.inst := rfl
@[simp] theorem Engine.hardReset_phase : e.hardReset.phase = .idle := rfl
@[simp] theorem Engine.hardReset_fault : e.hardReset.fault = .none := rfl
@[simp] theorem Engine.hardReset_digest : e.hardReset.digest = [] := rfl
@[simp] theorem Engine.hardReset_hex : e.hardReset.hex = [] := rfl
@[simp] theorem Engine.hardReset_useq : e.hardReset.useq = none := rfl
@[simp] theorem Engine.hardReset_trace : e.hardReset.trace = [] := rfl

end Sys2Proof.Machine
end

