-- ==== Sys2Proof/Laws/Ops.lean ====
section
/-! SUPPORT. For each shared operation, once, everything it can do; later proofs cite these. -/

namespace Sys2Proof.Machine

/-! ## Instances -/

/-- Addressing an instance: it is the one at that index; the instances and the inputs are the same. -/
theorem State.select_some {s t : State} {k : Nat} (h : s.select k = some t) :
    s.engines[k]? = some t.eng ∧ t.engines = s.engines ∧ t.pending = s.pending ∧ t.below.length = k := by
  unfold State.select at h
  split at h
  · cases h
  · next e rest hd =>
    cases h
    have hlen : k < s.engines.length := by
      have hpos : 0 < (s.engines.drop k).length := by rw [hd]; simp
      rw [List.length_drop] at hpos
      omega
    have h0 : (s.engines.drop k)[0]? = some e := by rw [hd]; rfl
    refine ⟨?_, ?_, rfl, ?_⟩
    · rw [List.getElem?_drop] at h0
      simpa using h0
    · show s.engines.take k ++ e :: rest = s.engines
      rw [← hd, List.take_append_drop]
    · show (s.engines.take k).length = k
      rw [List.length_take]
      omega

/-- Addressing fails exactly for an index that no instance has. -/
theorem State.select_eq_none {s : State} {k : Nat} : s.select k = none ↔ s.engines.length ≤ k := by
  unfold State.select
  split
  · next hd => simpa using hd
  · next e rest hd =>
    have hpos : 0 < (s.engines.drop k).length := by rw [hd]; simp
    rw [List.length_drop] at hpos
    simp
    omega

/-- Every instance is the addressed one or one of the others. -/
theorem State.mem_engines {s : State} {e : Engine} :
    e ∈ s.engines ↔ e ∈ s.below ∨ e = s.eng ∨ e ∈ s.above := by
  simp [State.engines]

/-! ## Buffers -/

/-- The bytes of a buffer built from a list. -/
theorem blockOfList_getElem (l : List Byte) (k : Nat) (hk : k < 64) :
    (blockOfList l)[k] = l.getD k 0#8 := by
  simp [blockOfList]

/-! ## Registers -/

/-- The initial values belong to the algorithm. -/
@[simp] theorem Regs.initial_alg (a : Alg) : (Regs.initial a).alg = a := by cases a <;> rfl

/-- A compression keeps the algorithm. -/
@[simp] theorem compress_alg (h : Regs) (buf : Block) : (compress h buf).alg = h.alg := by
  cases h with
  | md5 A B C D => simp only [compress, compressMd5, Regs.alg]
  | sha1 A B C D E => simp only [compress, compressSha1, Regs.alg]

/-- The number of registers (00_scope.md R9). -/
@[simp] theorem Regs.words_length (h : Regs) : h.words.length = Config.nreg h.alg := by
  cases h <;> rfl

/-- Adding to a register succeeds exactly where the register exists, keeps the algorithm, and changes that
register alone. -/
theorem Regs.add_eq (h : Regs) (r : Nat) (v : Word) :
    (r < Config.nreg h.alg →
      ∃ h', h.add r v = some h' ∧ h'.alg = h.alg ∧ h'.words = h.words.modify r (· + v)) ∧
    (Config.nreg h.alg ≤ r → h.add r v = none) := by
  rcases h with ⟨A, B, C, D⟩ | ⟨A, B, C, D, E⟩
  · constructor
    · intro hr
      simp only [Regs.alg, Config.nreg] at hr
      interval_cases r <;> exact ⟨_, rfl, rfl, rfl⟩
    · intro hr
      simp only [Regs.alg, Config.nreg] at hr
      obtain ⟨n, rfl⟩ : ∃ n, r = n + 4 := ⟨r - 4, by omega⟩
      rfl
  · constructor
    · intro hr
      simp only [Regs.alg, Config.nreg] at hr
      interval_cases r <;> exact ⟨_, rfl, rfl, rfl⟩
    · intro hr
      simp only [Regs.alg, Config.nreg] at hr
      obtain ⟨n, rfl⟩ : ∃ n, r = n + 5 := ⟨r - 5, by omega⟩
      rfl

/-! ## Admission -/

/-- The admission checks let an ABSORB through exactly when none applies. -/
theorem Engine.admission_eq_admitted (e : Engine) (n : Nat) : e.admission n = .admitted ↔ e.Accepts n := by
  unfold Engine.admission Engine.Accepts
  cases e.phase <;> simp <;> (repeat' split) <;> simp <;> omega

/-- What a gated command can do: nothing, in FAULTED; raise, outside FAULTED; or its body. -/
theorem Engine.gated_cases (e : Engine) (n : Nat) (body : Engine → Engine) :
    (e.phase = .faulted ∧ e.gated n body = e) ∨
    (e.phase ≠ .faulted ∧ ∃ c, c ≠ .none ∧ e.admission n = .raises c ∧ e.gated n body = e.raise c) ∨
    (e.Accepts n ∧ e.gated n body = body e) := by
  have hadm := e.admission_eq_admitted n
  unfold Engine.gated
  unfold Engine.admission at *
  split
  · next h => left; simp_all; (repeat' split at h) <;> simp_all
  · next c h =>
    right; left
    by_cases hf : e.phase = .faulted
    · simp [hf] at h
    · refine ⟨hf, c, ?_, h, rfl⟩
      rintro rfl
      (repeat' split at h) <;> simp_all
  · next h => right; right; exact ⟨hadm.mp h, rfl⟩

/-- What one admitted ABSORB does, field by field. -/
theorem Engine.absorbWith_fields (e : Engine) (count : BitVec 64) (buf : Block) (next : Phase) :
    let t := e.absorbWith count buf next
    t.phase = next ∧ t.h = compress e.h buf ∧ t.bitcount = count ∧ t.trace = e.trace ++ [buf] ∧
    t.useq = none ∧ t.fault = e.fault ∧ t.inst = e.inst ∧ t.draws = e.draws + 1 ∧
    t.digest = (if next = .done then Memory.ofList (serialize (compress e.h buf)) else e.digest) ∧
    t.hex = (if next = .done then Memory.ofList (hexstr (serialize (compress e.h buf))) else e.hex) := by
  unfold Engine.absorbWith
  by_cases h : next = .done <;> simp [h]

/-! ## Outcomes -/

/-- A meaning changes nothing but the addressed instance. -/
theorem exec_next_frame {i : Instr} {s t : State} (h : exec i s = .next t) :
    t = s.withEng t.eng := by
  cases i
  case feedfwdMd5 r =>
    simp only [exec, execFeedfwdMd5] at h
    split at h <;> cases h
    rfl
  case feedfwdSha1 r =>
    simp only [exec, execFeedfwdSha1] at h
    split at h <;> cases h
    rfl
  case formatMd5 r =>
    simp only [exec, execFormatMd5] at h
    split at h <;> cases h
    rfl
  case formatSha1 r =>
    simp only [exec, execFormatSha1] at h
    split at h <;> cases h
    rfl
  all_goals
    cases h
    rfl

/-- Everything a step can do. -/
theorem step_cases {s t : State} (h : step s = .next t) :
    (∃ c i u, s.fetch = .micro c i ∧ exec i s = .next u ∧ t = u.withEng (u.eng.advance c)) ∨
    (∃ i u, s.fetch = .command i u ∧ exec i u = .next t) ∨
    (∃ u, s.fetch = .reservedWord u ∧ t = u.withEng u.eng.badCommand) ∨
    (∃ u, s.fetch = .resetEvent u ∧ t = u.hardReset) ∨
    (s.fetch = .idle ∧ t = s) := by
  unfold step at h
  split at h
  · next c i hf =>
    split at h <;> cases h
    next u hu => exact .inl ⟨c, i, u, hf, hu, rfl⟩
  · next i u hf => exact .inr (.inl ⟨i, u, hf, h⟩)
  · next u hf => cases h; exact .inr (.inr (.inl ⟨u, hf, rfl⟩))
  · next u hf => cases h; exact .inr (.inr (.inr (.inl ⟨u, hf, rfl⟩)))
  · next hf => cases h; exact .inr (.inr (.inr (.inr ⟨hf, rfl⟩)))
  · cases h

end Sys2Proof.Machine
end

