-- ==== Sys2Proof/Laws/PerInstr.lean ====
section
/-! SUPPORT. Statements about every instruction as syntax, one lemma per constructor. -/

namespace Sys2Proof.Laws

/-- An instruction and the name the decoder gives it have the same code (30_encoding.md R116). -/
def EncodeAsCommand.Statement (i : Instr) : Prop := encode i.asCommand = encode i

theorem EncodeAsCommand.init (a : Alg) : EncodeAsCommand.Statement (.init a) := rfl
theorem EncodeAsCommand.absorb (block : List Byte) : EncodeAsCommand.Statement (.absorb block) := rfl
theorem EncodeAsCommand.abort : EncodeAsCommand.Statement .abort := rfl
theorem EncodeAsCommand.absorbFull (block : List Byte) : EncodeAsCommand.Statement (.absorbFull block) := rfl
theorem EncodeAsCommand.absorbFinal (block : List Byte) : EncodeAsCommand.Statement (.absorbFinal block) :=
  rfl
theorem EncodeAsCommand.absorbSpill (block : List Byte) : EncodeAsCommand.Statement (.absorbSpill block) :=
  rfl
theorem EncodeAsCommand.absorbLength : EncodeAsCommand.Statement .absorbLength := rfl
theorem EncodeAsCommand.count (a : Alg) : EncodeAsCommand.Statement (.count a) := rfl
theorem EncodeAsCommand.pad (a : Alg) : EncodeAsCommand.Statement (.pad a) := rfl
theorem EncodeAsCommand.loadMd5 (j : Fin 16) : EncodeAsCommand.Statement (.loadMd5 j) := rfl
theorem EncodeAsCommand.loadSha1 (j : Fin 16) : EncodeAsCommand.Statement (.loadSha1 j) := rfl
theorem EncodeAsCommand.expandSha1 (r : Fin 64) : EncodeAsCommand.Statement (.expandSha1 r) := rfl
theorem EncodeAsCommand.md5F (r : Fin 16) : EncodeAsCommand.Statement (.md5F r) := rfl
theorem EncodeAsCommand.md5G (r : Fin 16) : EncodeAsCommand.Statement (.md5G r) := rfl
theorem EncodeAsCommand.md5H (r : Fin 16) : EncodeAsCommand.Statement (.md5H r) := rfl
theorem EncodeAsCommand.md5I (r : Fin 16) : EncodeAsCommand.Statement (.md5I r) := rfl
theorem EncodeAsCommand.sha1Ch (r : Fin 20) : EncodeAsCommand.Statement (.sha1Ch r) := rfl
theorem EncodeAsCommand.sha1Par1 (r : Fin 20) : EncodeAsCommand.Statement (.sha1Par1 r) := rfl
theorem EncodeAsCommand.sha1Maj (r : Fin 20) : EncodeAsCommand.Statement (.sha1Maj r) := rfl
theorem EncodeAsCommand.sha1Par2 (r : Fin 20) : EncodeAsCommand.Statement (.sha1Par2 r) := rfl
theorem EncodeAsCommand.feedfwdMd5 (r : Fin 4) : EncodeAsCommand.Statement (.feedfwdMd5 r) := rfl
theorem EncodeAsCommand.feedfwdSha1 (r : Fin 5) : EncodeAsCommand.Statement (.feedfwdSha1 r) := rfl
theorem EncodeAsCommand.formatMd5 (r : Fin 4) : EncodeAsCommand.Statement (.formatMd5 r) := rfl
theorem EncodeAsCommand.formatSha1 (r : Fin 5) : EncodeAsCommand.Statement (.formatSha1 r) := rfl

end Sys2Proof.Laws
end

