-- ==== Sys2Proof/Tests/Slice0.lean ====
section
/-! SUPPORT. The model's own tests: well-formedness, decoding, one step per instruction with the numbers of
95_test_vectors.md, and for every statement with hypotheses a state and operands that meet them. -/

namespace Sys2Proof.Tests

open Sys2Proof.Machine

/-! ## Well-formedness: an ill-formed term for each check -/

theorem test_wf_absorb_128_refused : (Instr.absorb (List.replicate 128 0#8)).wf = false := by decide +kernel
theorem test_wf_absorb_127_accepted : (Instr.absorb (List.replicate 127 0#8)).wf = true := by decide +kernel
theorem test_wf_full_63_refused : (Instr.absorbFull (List.replicate 63 0#8)).wf = false := by decide
theorem test_wf_final_56_refused : (Instr.absorbFinal (List.replicate 56 0#8)).wf = false := by decide
theorem test_wf_spill_55_refused : (Instr.absorbSpill (List.replicate 55 0#8)).wf = false := by decide
theorem test_wf_spill_64_refused : (Instr.absorbSpill (List.replicate 64 0#8)).wf = false := by decide

/-! ## Decoding: words written out from 30_encoding.md R101 to R104 and R108 -/

theorem test_decode_init_md5 : decodeCommand 0b0001000000000000#16 [] = .instr (.init .md5) := by decide
theorem test_decode_init_sha1 : decodeCommand 0b0001000000000001#16 [] = .instr (.init .sha1) := by decide
theorem test_decode_absorb :
    decodeCommand 0b0010000000000010#16 [0x61#8, 0x62#8] = .instr (.absorb [0x61#8, 0x62#8]) := by decide
theorem test_decode_abort : decodeCommand 0b0011000000000000#16 [] = .instr .abort := by decide
/-- The word of ABSORB.FULL is ABSORB's with len = 64. -/
theorem test_decode_full : encode (.absorbFull (List.replicate 64 0#8)) =
    .command 0b0010000001000000#16 (List.replicate 64 0#8) := by decide
/-- The word of ABSORB.FINAL with n = 55. -/
theorem test_decode_final : encode (.absorbFinal (List.replicate 55 0#8)) =
    .command 0b0010000000110111#16 (List.replicate 55 0#8) := by decide
/-- The word of ABSORB.SPILL with n = 63. -/
theorem test_decode_spill : encode (.absorbSpill (List.replicate 63 0#8)) =
    .command 0b0010000000111111#16 (List.replicate 63 0#8) := by decide
/-- The word of ABSORB.LENGTH. -/
theorem test_decode_length : encode .absorbLength = .command 0b0010000000000000#16 [] := by decide
theorem test_decode_count : decodeCoord 0b10000000000#11 = .instr (.count .sha1) := by decide
theorem test_decode_pad : decodeCoord 0b00010000000#11 = .instr (.pad .md5) := by decide
theorem test_decode_load_md5 : decodeCoord 0b00100000101#11 = .instr (.loadMd5 5) := by decide
theorem test_decode_load_sha1 : decodeCoord 0b10100000101#11 = .instr (.loadSha1 5) := by decide
theorem test_decode_expand : decodeCoord 0b10111001111#11 = .instr (.expandSha1 63) := by decide
theorem test_decode_md5_f : decodeCoord 0b01000001111#11 = .instr (.md5F 15) := by decide
theorem test_decode_md5_g : decodeCoord 0b01000010000#11 = .instr (.md5G 0) := by decide
theorem test_decode_md5_h : decodeCoord 0b01000101111#11 = .instr (.md5H 15) := by decide
theorem test_decode_md5_i : decodeCoord 0b01000110000#11 = .instr (.md5I 0) := by decide
theorem test_decode_sha1_ch : decodeCoord 0b11000010011#11 = .instr (.sha1Ch 19) := by decide
theorem test_decode_sha1_par1 : decodeCoord 0b11000010100#11 = .instr (.sha1Par1 0) := by decide
theorem test_decode_sha1_maj : decodeCoord 0b11000101000#11 = .instr (.sha1Maj 0) := by decide
theorem test_decode_sha1_par2 : decodeCoord 0b11001001111#11 = .instr (.sha1Par2 19) := by decide
theorem test_decode_feedfwd_md5 : decodeCoord 0b01010000011#11 = .instr (.feedfwdMd5 3) := by decide
theorem test_decode_feedfwd_sha1 : decodeCoord 0b11010000100#11 = .instr (.feedfwdSha1 4) := by decide
theorem test_decode_format_md5 : decodeCoord 0b01100000001#11 = .instr (.formatMd5 1) := by decide
theorem test_decode_format_sha1 : decodeCoord 0b11100000100#11 = .instr (.formatSha1 4) := by decide
/-- The reserved words of 95_test_vectors.md 2.9, rows 4 to 8. -/
theorem test_decode_reserved :
    [0x0000#16, 0x1002#16, 0x2080#16, 0x3001#16, 0xf000#16].map (fun w => decodeCommand w []) =
      List.replicate 5 .reserved := by decide
/-- Coordinates that never occur (30_encoding.md R112). -/
theorem test_decode_no_coordinate :
    [0x380#11, 0x190#11, 0x240#11, 0x650#11, 0x284#11, 0x58f#11].map decodeCoord =
      List.replicate 6 .noCoordinate := by decide
theorem test_decode_payload_mismatch : decodeCommand 0x2003#16 [0x61#8] = .payloadMismatch := by decide
theorem test_table_word_command : decodeTableWord 16 0x2002 = some (.absorb [0#8, 0#8]) := by decide
theorem test_table_word_coordinate : decodeTableWord 16 0x0210 = some (.md5G 0) := by decide

/-! ## Small states -/

/-- A machine of one instance. -/
def machine (e : Engine) : State := { below := [], eng := e, above := [], pending := [] }

/-- The instance right after INIT. -/
def fresh (a : Alg) : Engine := (Engine.reset 0).create a

/-- An instance in the middle of an ABSORB, with accumulators and one word in the schedule. -/
def inRound (x : Acc) (t : Fin 80) (v : Word) : State :=
  machine { fresh .md5 with work := { Work.reset with acc := x, w := Work.reset.w.set t.val v } }

/-- An instance that owes the length block after `bits` message bits. -/
def owing (a : Alg) (bits : BitVec 64) : Engine :=
  { fresh a with phase := .awaitingLengthBlock, bitcount := bits }

/-- The addressed instance after a result. -/
def after (r : Result) : Option Engine :=
  match r with
  | .next t => some t.eng
  | _ => none

/-- The accumulators after an instruction. -/
def accAfter (i : Instr) (s : State) : Option Acc := (after (exec i s)).map (·.work.acc)

/-- The hex string of the addressed instance after a result. -/
def hexAfter (r : Result) : Option (List Char) := (after r).map fun e => e.hex.map (·.2)

/-- Phase and fault code after a result. -/
def phaseAfter (r : Result) : Option (Phase × FaultCode) := (after r).map fun e => (e.phase, e.fault)

/-! ## Primitives (95_test_vectors.md 2.1, 2.2, 2.3) -/

theorem test_rotl : rotl32 0x12345678#32 7 = 0x1a2b3c09#32 ∧ rotl32 0x80000000#32 1 = 1#32 := by decide
theorem test_le32 : le32 0x61#8 0x62#8 0x63#8 0x80#8 = 0x80636261#32 := by decide
theorem test_be32 : be32 0x61#8 0x62#8 0x63#8 0x80#8 = 0x61626380#32 := by decide
theorem test_length_field :
    lengthField .md5 0x0123456789abcdef#64 =
      [0xef#8, 0xcd#8, 0xab#8, 0x89#8, 0x67#8, 0x45#8, 0x23#8, 0x01#8] ∧
    lengthField .sha1 24#64 = [0#8, 0#8, 0#8, 0#8, 0#8, 0#8, 0#8, 0x18#8] := by decide
theorem test_md5_functions :
    [md5FnF, md5FnG, md5FnH, md5FnI].map (fun fn => fn 0xaaaaaaaa#32 0xcccccccc#32 0xf0f0f0f0#32) =
      [0xd8d8d8d8#32, 0xacacacac#32, 0x96969696#32, 0x63636363#32] := by decide
theorem test_sha1_functions :
    [sha1FnCh, sha1FnPar, sha1FnMaj].map (fun fn => fn 0xaaaaaaaa#32 0xcccccccc#32 0xf0f0f0f0#32) =
      [0xd8d8d8d8#32, 0x96969696#32, 0xe8e8e8e8#32] := by decide
theorem test_hexstr : hexstr [0x00#8, 0x01#8, 0x0a#8, 0xa0#8, 0xff#8, 0x9f#8] =
    ['0', '0', '0', '1', '0', 'a', 'a', '0', 'f', 'f', '9', 'f'] := by decide

/-! ## Single rounds at the range boundaries (95_test_vectors.md 2.4) -/

theorem test_md5_f_15 :
    accAfter (.md5F 15) (inRound ⟨0x5ed49596#32, 0xe396856b#32, 0xa1051895#32, 0xdda9b9a6#32, 0#32⟩ 15 0#32) =
      some ⟨0xdda9b9a6#32, 0x72aff2e0#32, 0xe396856b#32, 0xa1051895#32, 0#32⟩ := by decide
theorem test_md5_f_all_ones :
    accAfter (.md5F 0) (inRound ⟨0xffffffff#32, 0xffffffff#32, 0xffffffff#32, 0xffffffff#32, 0#32⟩ 0
      0xffffffff#32) =
      some ⟨0xffffffff#32, 0xb5523aea#32, 0xffffffff#32, 0xffffffff#32, 0#32⟩ := by decide
theorem test_md5_g_16 :
    accAfter (.md5G 0) (inRound ⟨0xdda9b9a6#32, 0x72aff2e0#32, 0xe396856b#32, 0xa1051895#32, 0#32⟩ 0
      0x80636261#32) =
      some ⟨0xa1051895#32, 0x3e9e9126#32, 0x72aff2e0#32, 0xe396856b#32, 0#32⟩ := by decide
theorem test_md5_h_32 :
    accAfter (.md5H 0) (inRound ⟨0x790a77fb#32, 0x726342d3#32, 0xa62884aa#32, 0x9f47e4f8#32, 0#32⟩ 0
      0x80636261#32) =
      some ⟨0x9f47e4f8#32, 0xb3707ebf#32, 0x726342d3#32, 0xa62884aa#32, 0#32⟩ := by decide
theorem test_md5_i_48 :
    accAfter (.md5I 0) (inRound ⟨0x7f2e507b#32, 0x7beb9700#32, 0x8fae6399#32, 0x99d9679d#32, 0#32⟩ 0
      0x80636261#32) =
      some ⟨0x99d9679d#32, 0x7b201df8#32, 0x7beb9700#32, 0x8fae6399#32, 0#32⟩ := by decide
theorem test_sha1_ch_19 :
    accAfter (.sha1Ch 19) (inRound ⟨0xdc64901d#32, 0x82aa6728#32, 0xd3a49608#32, 0xc82f758b#32,
      0xc65afb9d#32⟩ 19 0x85898e01#32) =
      some ⟨0xfd9e1d7d#32, 0xdc64901d#32, 0x20aa99ca#32, 0xd3a49608#32, 0xc82f758b#32⟩ := by decide
theorem test_sha1_par1_39 :
    accAfter (.sha1Par1 19) (inRound ⟨0x4c986405#32, 0xdc63973f#32, 0x03d447f6#32, 0xf72eec32#32,
      0x085e5ab5#32⟩ 39 0x000018c0#32) =
      some ⟨0x32de1cba#32, 0x4c986405#32, 0xf718e5cf#32, 0x03d447f6#32, 0xf72eec32#32⟩ := by decide
theorem test_sha1_maj_40 :
    accAfter (.sha1Maj 0) (inRound ⟨0x32de1cba#32, 0x4c986405#32, 0xf718e5cf#32, 0x03d447f6#32,
      0xf72eec32#32⟩ 40 0xd2e138c4#32) =
      some ⟨0xfc87dedf#32, 0x32de1cba#32, 0x53261901#32, 0xf718e5cf#32, 0x03d447f6#32⟩ := by decide
theorem test_sha1_par2_60 :
    accAfter (.sha1Par2 0) (inRound ⟨0x3f52de5a#32, 0x09d785fd#32, 0x3498bfd4#32, 0xf211824f#32,
      0xd79915ab#32⟩ 60 0x7ba06619#32) =
      some ⟨0xd756c147#32, 0x3f52de5a#32, 0x4275e17f#32, 0x3498bfd4#32, 0xf211824f#32⟩ := by decide

/-! ## Load, expand, feed-forward, format, count, pad (95_test_vectors.md 2.5, 2.6, 2.8) -/

/-- The buffer 00 01 02 … 3f. -/
def counting : Block := Vector.ofFn fun k : Fin 64 => BitVec.ofNat 8 k.val

/-- An instance whose buffer is `counting`. -/
def loaded : State := machine { fresh .sha1 with work := { Work.reset with buf := counting } }

theorem test_load_md5 : (after (exec (.loadMd5 15) loaded)).map (fun e => wordAt e.work.w 15) =
    some 0x3f3e3d3c#32 := by decide
theorem test_load_sha1 : (after (exec (.loadSha1 15) loaded)).map (fun e => wordAt e.work.w 15) =
    some 0x3c3d3e3f#32 := by decide
theorem test_expand_16 :
    (after (exec (.expandSha1 0) (machine { fresh .sha1 with
      work := { Work.reset with w := loadedSha1 counting } }))).map (fun e => wordAt e.work.w 16) =
      some 0x38383838#32 := by decide
theorem test_schedule_79 : wordAt (scheduleSha1 counting) 79 = 0xc47818a4#32 := by decide +kernel
theorem test_feedfwd_md5_carry :
    (after (exec (.feedfwdMd5 0) (machine { fresh .md5 with
      h := .md5 0xffffffff#32 0#32 0x80000000#32 0x12345678#32
      work := { Work.reset with acc := ⟨1#32, 0#32, 0x80000000#32, 0xedcba988#32, 0#32⟩ } }))).map (·.h) =
      some (.md5 0#32 0#32 0x80000000#32 0x12345678#32) := by decide
theorem test_feedfwd_sha1_e :
    (after (exec (.feedfwdSha1 4) (machine { fresh .sha1 with
      work := { Work.reset with acc := ⟨0#32, 0#32, 0#32, 0#32, 0xd8fdf6ad#32⟩ } }))).map (·.h.get 4) =
      some (some 0x9cd0d89d#32) := by decide
theorem test_format_md5_d :
    (after (exec (.formatMd5 3) (machine { fresh .md5 with
      h := .md5 0x01234567#32 0x89abcdef#32 0xfedcba98#32 0x76543210#32 }))).map
        (fun e => (e.digest, e.hex.map (·.2))) =
      some ([(12, 0x10#8), (13, 0x32#8), (14, 0x54#8), (15, 0x76#8)],
        ['1', '0', '3', '2', '5', '4', '7', '6']) := by decide
theorem test_format_sha1_e :
    (after (exec (.formatSha1 4) (machine { fresh .sha1 with
      h := .sha1 0#32 0#32 0#32 0#32 0x0f1e2d3c#32 }))).map (·.digest) =
      some [(16, 0x0f#8), (17, 0x1e#8), (18, 0x2d#8), (19, 0x3c#8)] := by decide
theorem test_count :
    (after (exec (.count .md5) (machine { fresh .md5 with
      bitcount := 512#64, work := { Work.reset with block := List.replicate 16 0#8 } }))).map (·.bitcount) =
      some 640#64 := by decide
/-- n = 55: the 0x80 byte at 55, the length field directly after it. -/
theorem test_pad_55 :
    (after (exec (.pad .md5) (machine { fresh .md5 with
      bitcount := 440#64, work := { Work.reset with block := List.replicate 55 0x61#8 } }))).map
        (fun e => (e.work.next, e.work.buf.toList.drop 54)) =
      some (.done, [0x61#8, 0x80#8, 0xb8#8, 1#8, 0#8, 0#8, 0#8, 0#8, 0#8, 0#8]) := by decide
/-- n = 63: the 0x80 byte is the last of the buffer and the length is owed. -/
theorem test_pad_63 :
    (after (exec (.pad .sha1) (machine { fresh .sha1 with
      bitcount := 504#64, work := { Work.reset with block := List.replicate 63 0x61#8 } }))).map
        (fun e => (e.work.next, e.work.buf.toList.drop 62)) =
      some (.awaitingLengthBlock, [0x61#8, 0x80#8]) := by decide
theorem test_stop_feedfwd_sha1_e_on_md5 :
    (match exec (.feedfwdSha1 4) (machine (fresh .md5)) with | .fault .noRegisterE => true | _ => false) =
      true := by decide

/-! ## Commands (95_test_vectors.md P1 to P8, 2.7, 2.9) -/

/-- R130: MD5 registers after INIT. -/
theorem test_init_md5 : (after (exec (.init .md5) (machine (Engine.reset 0)))).map (fun e => (e.h, e.phase)) =
    some (.md5 0x67452301#32 0xefcdab89#32 0x98badcfe#32 0x10325476#32, .awaitingData) := by decide
theorem test_init_leaves_faulted :
    phaseAfter (exec (.init .sha1) (machine ((fresh .md5).raise .chunkTooLong))) =
      some (.awaitingData, .none) := by decide
/-- V3: MD5 of "abc". -/
theorem test_absorb_md5_abc : hexAfter (exec (.absorb [0x61#8, 0x62#8, 0x63#8]) (machine (fresh .md5))) =
    some "900150983cd24fb0d6963f7d28e17f72".toList := by decide +kernel
/-- V5: SHA-1 of "abc". -/
theorem test_absorb_sha1_abc : hexAfter (exec (.absorb [0x61#8, 0x62#8, 0x63#8]) (machine (fresh .sha1))) =
    some "a9993e364706816aba3e25717850c26c9cd0d89d".toList := by decide +kernel
/-- V2: SHA-1 of the empty message. -/
theorem test_final_sha1_empty : hexAfter (exec (.absorbFinal []) (machine (fresh .sha1))) =
    some "da39a3ee5e6b4b0d3255bfef95601890afd80709".toList := by decide +kernel
/-- 2.7, n = 64, first compression. -/
theorem test_full_md5 :
    (after (exec (.absorbFull (List.replicate 64 0x61#8)) (machine (fresh .md5)))).map
      (fun e => (e.h, e.phase, e.bitcount, e.digest)) =
      some (.md5 0x89d4ff56#32 0x125cd962#32 0x69cade33#32 0x0033e325#32, .awaitingData, 512#64, []) := by
  decide +kernel
/-- 2.7, n = 56, first compression. -/
theorem test_spill_md5 :
    (after (exec (.absorbSpill (List.replicate 56 0x61#8)) (machine (fresh .md5)))).map
      (fun e => (e.h, e.phase, e.bitcount, e.digest)) =
      some (.md5 0x3bf7335f#32 0x122cdb68#32 0xb14e7896#32 0xf4455e95#32, .awaitingLengthBlock, 448#64, []) := by
  decide +kernel
/-- 2.7, n = 56, second compression. -/
theorem test_length_md5 :
    hexAfter (exec .absorbLength (machine { owing .md5 448#64 with
      h := .md5 0x3bf7335f#32 0x122cdb68#32 0xb14e7896#32 0xf4455e95#32 })) =
      some "3b0c8ac703f828b04c6c197006d17218".toList := by decide +kernel
/-- 2.9, rows 3 and 16. -/
theorem test_abort : phaseAfter (exec .abort (machine (Engine.reset 0))) = some (.idle, .none) ∧
    phaseAfter (exec .abort (machine (fresh .md5))) = some (.faulted, .upstreamAbort) := by decide
/-- 2.9, rows 1, 9, 12, 13 and 15. -/
theorem test_admission :
    phaseAfter (exec (.absorb []) (machine (Engine.reset 0))) = some (.faulted, .noComputation) ∧
    phaseAfter (exec (.absorb (List.replicate 65 0#8)) (machine (fresh .md5))) =
      some (.faulted, .chunkTooLong) ∧
    phaseAfter (exec (.absorb (List.replicate 65 0#8)) (machine { fresh .md5 with phase := .done })) =
      some (.faulted, .chunkTooLong) ∧
    phaseAfter (exec (.absorb [0x61#8]) (machine (owing .md5 448#64))) =
      some (.faulted, .nonemptyLengthBlock) ∧
    phaseAfter (exec (.absorb (List.replicate 65 0x61#8)) (machine (owing .md5 448#64))) =
      some (.faulted, .chunkTooLong) := by decide
/-- The state-level vector of LENGTH_OVERFLOW at the end of 2.9. -/
theorem test_length_overflow :
    phaseAfter (exec (.absorb (List.replicate 64 0#8))
      (machine { fresh .md5 with bitcount := BitVec.ofNat 64 (2 ^ 64 - 512) })) =
      some (.faulted, .lengthOverflow) := by decide
/-- 2.9, row 4, through the step. -/
theorem test_step_bad_command :
    phaseAfter (step { machine (Engine.reset 0) with pending := [.command 0 0x0000#16 []] }) =
      some (.faulted, .badCommand) := by decide
/-- A command addressed to the second of two instances reaches that one. -/
theorem test_step_addresses :
    (match step { machine (Engine.reset 0) with above := [Engine.reset 1], pending := [.command 1 0x1001#16 []] }
      with
      | .next t => t.engines.map (fun e => (e.inst, e.phase))
      | _ => []) = [(0, .idle), (1, .awaitingData)] := by decide
/-- 10_state.md R48: STATUS in AWAITING_DATA with SHA1. -/
theorem test_status : (fresh .sha1).status = 0x109#32 := by decide
/-- Every kind of row runs as the first instruction after reset. -/
theorem test_fetch_words :
    [0x1000, 0x2000, 0x3000, 0x000, 0x080, 0x100, 0x500, 0x590, 0x200, 0x210, 0x220, 0x230, 0x600, 0x614, 0x628,
      0x63c, 0x280, 0x680, 0x300, 0x700].all (fun w =>
        match step (State.reset.withFetchWord 16 w) with
        | .next _ => true
        | _ => false) = true := by decide

/-! ## Witnesses: a state and operands for the hypotheses of each statement that has some -/

/-- The single instance `e`, with one input pending. -/
def given (e : Engine) (i : Input) : State := { machine e with pending := [i] }

/-- A finished computation with the digest of its registers stored. -/
def finished (a : Alg) : Engine := { fresh a with phase := .done }.format

/-- An instance in FAULTED. -/
def broken : Engine := (fresh .md5).raise .chunkTooLong

/-- A PAD about to run on `n` bytes in a phase. -/
def padding (n : Nat) (p : Phase) : State :=
  machine { fresh .md5 with phase := p, work := { Work.reset with block := List.replicate n 0x61#8 } }

/-- Two instances at rest. -/
def pair : State := { machine (Engine.reset 0) with above := [Engine.reset 1] }

theorem witness_DecodeOfEncode :
    (Instr.absorb (List.replicate 127 0#8)).wf = true ∧ (Instr.expandSha1 63).wf = true ∧
    (Instr.absorbSpill (List.replicate 56 0#8)).wf = true := by decide +kernel
theorem witness_DecodableCode : decode (.coord 0x5cf#11) = .instr (.expandSha1 63) ∧
    decode (.command 0x1001#16 []) = .instr (.init .sha1) := by decide
theorem witness_ReservedWords :
    (machine broken).eng.useq = none ∧ decodeCommand 0xffff#16 [] = .reserved ∧
    (machine broken).eng.phase = .faulted ∧
    ((given broken (.command 0 0xffff#16 [])).select 0).isSome ∧
    (fresh .sha1).useq = none ∧ (fresh .sha1).phase ≠ .faulted ∧
    ((given (fresh .sha1) (.command 0 0xffff#16 [])).select 0).isSome := by decide
theorem witness_StepRunsTheDecodedCommand :
    pair.eng.useq = none ∧ 1 < pair.engines.length ∧ decodeCommand 0x3000#16 [] = .instr .abort := by decide
theorem witness_StepRunsTheMicroOperation :
    ∃ t, ((machine (fresh .md5)).withCoord 0x210#11).eng.useq = some 0x210#11 ∧
      decodeCoord 0x210#11 = .instr (.md5G 0) ∧
      exec (.md5G 0) ((machine (fresh .md5)).withCoord 0x210#11) = .next t := ⟨_, rfl, by decide, rfl⟩
theorem witness_ResetEventAndIdleStep :
    ({ pair with pending := [.reset] } : State).eng.useq = none ∧
    ({ pair with pending := [.reset] } : State).pending = .reset :: [] ∧
    (machine broken).eng.useq = none ∧ (machine broken).pending = [] := ⟨rfl, rfl, rfl, rfl⟩
theorem witness_StepRefuses_coordinate :
    ((machine (fresh .md5)).withCoord 0x7ff#11).eng.useq = some 0x7ff#11 ∧
    decodeCoord 0x7ff#11 = .noCoordinate := by decide
theorem witness_StepRefuses_command :
    (given (fresh .md5) (.command 1 0x1000#16 [])).eng.useq = none ∧
    (given (fresh .md5) (.command 1 0x1000#16 [])).engines.length ≤ 1 ∧
    0 < (given (fresh .md5) (.command 0 0x2000#16 [0#8])).engines.length ∧
    decodeCommand 0x2000#16 [0#8] = .payloadMismatch := by decide
theorem witness_AtRest : pair.AtRest ∧ State.reset.AtRest := by
  constructor
  · unfold State.AtRest; decide
  · intro e he
    simp only [State.engines, State.reset, State.resetWith, List.nil_append, List.mem_cons, List.mem_map] at he
    rcases he with rfl | ⟨k, -, rfl⟩ <;> rfl
theorem witness_FullBlock :
    (fresh .md5).phase = .awaitingData ∧ (List.replicate 64 0x61#8).length = 64 ∧
    (fresh .md5).bitcount.toNat + 512 ≤ 2 ^ 64 - 1 ∧
    (BitVec.ofNat 64 (2 ^ 64 - 1024)).toNat + 512 ≤ 2 ^ 64 - 1 := by decide +kernel
/-- n = 0 and n = 55; 8 * 55 bits more than the last multiple of 512 still fit. -/
theorem witness_FinalBlock :
    (fresh .sha1).phase = .awaitingData ∧ ([] : List Byte).length ≤ 55 ∧
    (List.replicate 55 0x61#8).length ≤ 55 ∧
    (BitVec.ofNat 64 (2 ^ 64 - 512)).toNat + 8 * 55 ≤ 2 ^ 64 - 1 := by decide +kernel
/-- n = 56 and n = 63. -/
theorem witness_SpillBlock :
    (fresh .md5).phase = .awaitingData ∧ 56 ≤ (List.replicate 56 0x61#8).length ∧
    (List.replicate 63 0x61#8).length ≤ 63 ∧
    (BitVec.ofNat 64 (2 ^ 64 - 512)).toNat + 8 * 63 ≤ 2 ^ 64 - 1 := by decide +kernel
theorem witness_LengthBlock : (owing .md5 448#64).phase = .awaitingLengthBlock ∧
    (owing .sha1 504#64).phase = .awaitingLengthBlock := by decide
theorem witness_AbsorbCases :
    (List.replicate 64 0#8).length = 64 ∧ (List.replicate 55 0#8).length ≤ 55 ∧
    (56 ≤ (List.replicate 56 0#8).length ∧ (List.replicate 63 0#8).length ≤ 63) := by decide +kernel
theorem witness_Abort :
    (Engine.reset 0).phase = .idle ∧ broken.phase = .faulted ∧ (fresh .md5).phase = .awaitingData ∧
    (owing .md5 448#64).phase = .awaitingLengthBlock ∧ (finished .sha1).phase = .done := by decide
theorem witness_FaultedIsSticky : (machine broken).eng.phase = .faulted ∧ (machine broken).eng.useq = none ∧
    decodeCommand 0x1002#16 [] = .reserved := by decide
theorem witness_CounterCountsMessageBits :
    ∃ t, exec (.absorb [0x61#8]) (machine (fresh .md5)) = .next t ∧ t.eng.phase ≠ .faulted :=
  ⟨_, rfl, by decide +kernel⟩
theorem witness_MessageBytesDoNotSteer :
    ∃ t1 t2, ([0x61#8] : List Byte).length = [0x62#8].length ∧
      exec (.absorb [0x61#8]) (machine (fresh .md5)) = .next t1 ∧
      exec (.absorb [0x62#8]) (machine (fresh .md5)) = .next t2 ∧ t1.eng.phase ≠ .faulted :=
  ⟨_, _, rfl, rfl, rfl, by decide +kernel⟩
/-- n = 0, 55, 56, 63 with the 0x80 byte to emit, and the length block. -/
theorem witness_PadBuilds :
    [padding 0 .awaitingData, padding 55 .awaitingData, padding 56 .awaitingData, padding 63 .awaitingData,
      padding 0 .awaitingLengthBlock].all (fun s => decide (s.eng.work.block.length < 64)) = true := by
  decide +kernel
theorem witness_ExpandWritesTheRecurrence : 16 ≤ 16 ∧ 16 ≤ 79 ∧ 79 < 80 := by decide
/-- The rotation at n = 1 and n = 31, and the first and last MD5 round. -/
theorem witness_Rotation : (0 < 1 ∧ 1 < 32) ∧ (0 < 31 ∧ 31 < 32) ∧
    rotl32 0x80000001#32 1 = 3#32 ∧ rotl32 0x80000001#32 31 = 0xc0000000#32 ∧ md5Shift 0 = 7 ∧
    md5Shift 63 = 21 := by decide
theorem witness_RegisterE_on_sha1 : (4 < 4 ∨ (machine (fresh .sha1)).eng.h.alg = .sha1) ∧
    (3 < 4 ∨ (machine (fresh .md5)).eng.h.alg = .sha1) := by decide
theorem witness_RegisterE_on_md5 : (machine (fresh .md5)).eng.h.alg = .md5 := rfl
/-- Lengths 0, 55, 56, 63, 64 in AWAITING_DATA, and the length block. -/
theorem witness_Accepts :
    (∀ n ∈ [0, 55, 56, 63, 64], (fresh .sha1).Accepts n) ∧ (owing .md5 448#64).Accepts 0 ∧
    (fresh .sha1).digest = [] ∧ (fresh .sha1).hex = [] ∧ 0 ≤ (useqOrder .sha1 0).length := by
  unfold Engine.Accepts; decide +kernel
theorem witness_LengthLands :
    (∀ (j : Nat) (h : j < 8),
      (blockOfList (List.replicate 56 0#8 ++ lengthField .md5 0x0123456789abcdef#64))[56 + j] =
        lengthByte .md5 0x0123456789abcdef#64 j) ∧
    (∀ (j : Nat) (h : j < 8),
      (blockOfList (List.replicate 56 0#8 ++ lengthField .sha1 0x0123456789abcdef#64))[56 + j] =
        lengthByte .sha1 0x0123456789abcdef#64 j) ∧
    (0xfffffff8#64).toNat < 8 * 2 ^ 29 := by decide +kernel
theorem witness_EndianMux : (fresh .sha1).h.get 4 = some 0xc3d2e1f0#32 ∧ (3 : Nat) < 4 ∧ (7 : Nat) < 8 := by
  decide
theorem witness_Hex : ([0xf0#8, 0x0f#8] : List Byte)[1]? = some 0x0f#8 := rfl
theorem witness_StatusWord : pair.engines[1]? = some (Engine.reset 1) ∧ (Engine.reset 1).useq = none := by
  decide
/-- One instance for every phase. -/
theorem witness_DigestIsReadable :
    ∀ e ∈ [Engine.reset 0, fresh .md5, owing .sha1 448#64, finished .md5, finished .sha1, broken],
      (machine e).engines[0]? = some e ∧ e.BetweenCommands := by
  simp only [List.mem_cons, List.not_mem_nil, or_false, forall_eq_or_imp, forall_eq]
  refine ⟨⟨rfl, ?_⟩, ⟨rfl, ?_⟩, ⟨rfl, ?_⟩, ⟨rfl, ?_⟩, ⟨rfl, ?_⟩, ⟨rfl, ?_⟩⟩ <;>
    refine ⟨rfl, ?_, ?_, ?_, ?_, ?_, ?_⟩ <;> decide +kernel
theorem witness_StepKeepsBetweenCommands :
    ∃ t, (given (finished .sha1) (.command 0 0x3000#16 [])).BetweenCommands ∧
      step (given (finished .sha1) (.command 0 0x3000#16 [])) = .next t := by
  refine ⟨_, ?_, rfl⟩
  intro e he
  simp only [given, machine, State.engines, List.nil_append, List.mem_singleton] at he
  subst he
  refine ⟨rfl, ?_, ?_, ?_, ?_, ?_, ?_⟩ <;> decide +kernel
theorem witness_StepKeepsTheChain :
    ∃ t, (given (fresh .sha1) (.command 0 0x2000#16 [])).Chained ∧
      step (given (fresh .sha1) (.command 0 0x2000#16 [])) = .next t := by
  refine ⟨_, ⟨?_, ?_⟩, rfl⟩ <;> intro e he <;>
    simp only [given, machine, State.engines, List.nil_append, List.mem_singleton] at he <;> subst he
  · rfl
  · intro _; rfl
theorem witness_StepKeepsTracesOfMessages :
    ∃ t, (given (fresh .md5) (.command 0 0x2001#16 [0x61#8])).TracesMessages ∧
      step (given (fresh .md5) (.command 0 0x2001#16 [0x61#8])) = .next t := by
  refine ⟨_, ⟨?_, ?_⟩, rfl⟩ <;> intro e he <;>
    simp only [given, machine, State.engines, List.nil_append, List.mem_singleton] at he <;> subst he
  · rfl
  · intro _; exact ⟨[], rfl, rfl, rfl⟩
theorem witness_StepKeepsStoresCanonical :
    ∃ t, ((machine (finished .md5)).withCoord 0x301#11).StoresCanonical ∧
      step ((machine (finished .md5)).withCoord 0x301#11) = .next t := by
  refine ⟨_, ?_, rfl⟩
  unfold State.StoresCanonical; decide +kernel
theorem witness_StepKeepsTheInstances :
    ∃ t, pair.Indexed ∧ step { pair with pending := [.command 1 0x1000#16 []] } = .next t := ⟨_, rfl, rfl⟩
theorem witness_OnlyTheNamedInstructionsWriteRegisters :
    ∃ t, mayWriteRegs (.formatSha1 3) = false ∧ exec (.formatSha1 3) (machine (fresh .md5)) = .next t :=
  ⟨_, rfl, rfl⟩
theorem witness_InstancesCommute :
    ∃ t, pair.AtRest ∧ 0 ≠ 1 ∧
      Sys2Proof.core.run 2 { pair with pending := [.command 0 0x1000#16 [], .command 1 0x1001#16 []] } =
        .next t := by
  refine ⟨_, ?_, by decide, rfl⟩
  unfold State.AtRest; decide
/-- After no byte; after 56 bytes, when the length block is owed; after the whole empty message. -/
theorem witness_AbsorbExtendsTheMessage :
    ((fresh .md5).HasAbsorbed [] ∧ (fresh .md5).Accepts 64) ∧
    ({ owing .md5 448#64 with
        trace := [blockOfList (List.replicate 56 0x61#8 ++ 0x80#8 :: List.replicate 7 0#8)]
      }.HasAbsorbed (List.replicate 56 0x61#8) ∧ (owing .md5 448#64).Accepts 0) := by
  refine ⟨⟨⟨rfl, rfl, rfl⟩, ?_⟩, ⟨?_, ?_, ?_⟩, ?_⟩
  · unfold Engine.Accepts; decide +kernel
  · decide +kernel
  · decide +kernel
  · decide +kernel
  · unfold Engine.Accepts; decide +kernel
theorem witness_SliceDriver : 8 * [0x61#8, 0x62#8, 0x63#8].length ≤ 2 ^ 64 - 1 ∧
    messageDigest .md5 [] = [0xd4#8, 0x1d#8, 0x8c#8, 0xd9#8, 0x8f#8, 0x00#8, 0xb2#8, 0x04#8,
      0xe9#8, 0x80#8, 0x09#8, 0x98#8, 0xec#8, 0xf8#8, 0x42#8, 0x7e#8] := by decide +kernel
/-- Messages of 55 and 56 bytes, and the engine's own count for 56. -/
theorem witness_NumberOfCompressions :
    8 * (List.replicate 55 0x61#8).length ≤ 2 ^ 64 - 1 ∧ 8 * (List.replicate 56 0x61#8).length ≤ 2 ^ 64 - 1 ∧
    (after (sliceDriver .sha1 (List.replicate 56 0x61#8) (machine broken))).map (·.trace.length) = some 2 := by
  decide +kernel
theorem witness_ReadError : (∀ block ∈ [List.replicate 64 0x61#8], block.length = 64) ∧
    512 * [List.replicate 64 0x61#8].length ≤ 2 ^ 64 - 1 := by decide +kernel

end Sys2Proof.Tests
end

section
/-! PROOFS. Family 00_scope.md: the rotation (R16, R184), and the refinement of the atomic ABSORB by its
micro-operations (R20, 10_state.md R45, R47). -/

namespace Sys2Proof.Machine

/-! ## Rotation -/

/-- The formula of 00_scope.md R16. -/
theorem rotl32_eq_shifts (x : Word) {n : Nat} (hn : n < 32) :
    rotl32 x n = (x <<< n ||| x >>> (32 - n)) := by
  rw [rotl32, BitVec.rotateLeft_def, Nat.mod_eq_of_lt hn]

theorem rotl32_zero (x : Word) : rotl32 x 0 = x := by
  simp [rotl32_eq_shifts x (by omega : 0 < 32), BitVec.ushiftRight_eq_zero]

/-- Bit `k` moves up by `n`, and the bits that would leave at the top come in at the bottom. -/
theorem rotl32_getLsbD (x : Word) {n k : Nat} (hn : n < 32) (hk : k < 32) :
    (rotl32 x n).getLsbD ((k + n) % 32) = x.getLsbD k := by
  rw [rotl32, BitVec.getLsbD_rotateLeft, Nat.mod_eq_of_lt hn]
  by_cases hstays : k + n < 32
  · have hpos : (k + n) % 32 = k + n := Nat.mod_eq_of_lt hstays
    simp [hpos, hstays]
  · have hpos : (k + n) % 32 = k + n - 32 := by omega
    have hlow : k + n - 32 < n := by omega
    have hsource : 32 - n + (k + n - 32) = k := by omega
    simp [hpos, hlow, hsource]

theorem md5Shift_range : ∀ i < 64, 4 ≤ md5Shift i ∧ md5Shift i ≤ 23 := by
  decide

/-- Settles O27: the formula is the library's, and each bit is followed to its new place. -/
theorem rotationMovesEveryBit : Obligations.RotationMovesEveryBit :=
  ⟨fun x _ _ hn => rotl32_eq_shifts x hn, rotl32_zero, fun x _ _ hn hk => rotl32_getLsbD x hn hk,
    md5Shift_range⟩

/-! ## Coordinates: the fields of a packed coordinate (30_encoding.md R108) -/

/-- Concatenation as arithmetic: the low part has `n` bits. -/
theorem toNat_append_eq {m n : Nat} (x : BitVec m) (y : BitVec n) :
    (x ++ y).toNat = x.toNat * 2 ^ n + y.toNat := by
  rw [BitVec.toNat_append, ← Nat.shiftLeft_add_eq_or_of_lt y.isLt, Nat.shiftLeft_eq]

theorem packCoord_toNat (a : Alg) (st : BitVec 3) {idx : Nat} (h : idx < 128) :
    (packCoord a st idx).toNat = 1024 * a.bit.toNat + 128 * st.toNat + idx := by
  have happ : (packCoord a st idx).toNat =
      (a.bit.toNat * 2 ^ 3 + st.toNat) * 2 ^ 7 + idx % 2 ^ 7 := by
    rw [← toNat_append_eq, ← BitVec.toNat_ofNat, ← toNat_append_eq, packCoord]
  omega

@[simp] theorem coordIdx_packCoord (a : Alg) (st : BitVec 3) {idx : Nat} (h : idx < 128) :
    coordIdx (packCoord a st idx) = idx := by
  rw [coordIdx, BitVec.extractLsb'_toNat, packCoord_toNat a st h, Nat.shiftRight_zero]
  omega

@[simp] theorem coordStage_packCoord (a : Alg) (st : BitVec 3) {idx : Nat} (h : idx < 128) :
    coordStage (packCoord a st idx) = st.toNat := by
  rw [coordStage, BitVec.extractLsb'_toNat, packCoord_toNat a st h, Nat.shiftRight_eq_div_pow]
  omega

@[simp] theorem coordAlg_packCoord (a : Alg) (st : BitVec 3) {idx : Nat} (h : idx < 128) :
    coordAlg (packCoord a st idx) = a := by
  have hbit : (packCoord a st idx).extractLsb' 10 1 = a.bit := by
    apply BitVec.eq_of_toNat_eq
    rw [BitVec.extractLsb'_toNat, packCoord_toNat a st h, Nat.shiftRight_eq_div_pow]
    omega
  rw [coordAlg, hbit]
  cases a <;> rfl

/-- The next index of a stage is the next coordinate. -/
theorem packCoord_add_one (a : Alg) (st : BitVec 3) {idx : Nat} (h : idx + 1 < 128) :
    packCoord a st idx + 1#11 = packCoord a st (idx + 1) := by
  have hidx : idx < 128 := by omega
  apply BitVec.eq_of_toNat_eq
  rw [BitVec.toNat_add, packCoord_toNat a st h, packCoord_toNat a st hidx, BitVec.toNat_ofNat]
  omega

/-- Every micro-operation is what the decoder reads from its coordinate, a row of 30_encoding.md R108 each. -/
theorem decodeCoord_of_encode {i : Instr} {c : BitVec 11} (h : encode i = .coord c) :
    decodeCoord c = .instr i := by
  cases i <;> cases h
  case count a => cases a <;> rfl
  case pad a => cases a <;> rfl
  all_goals simp (disch := omega) [decodeCoord, dif_pos, dif_neg]

/-! ## Where the sequencer goes next (10_state.md R45, R47) -/

theorem lastIdx_le (a : Alg) (st : Nat) : lastIdx a st ≤ 79 := by
  unfold lastIdx
  split <;> cases a <;> decide

/-- Inside a stage the index goes up by one. -/
theorem Engine.advance_within (e : Engine) {a : Alg} {st : BitVec 3} {idx : Nat}
    (h : idx < lastIdx a st.toNat) :
    (e.goTo a st idx).advance (packCoord a st idx) = e.goTo a st (idx + 1) := by
  have hidx : idx + 1 < 128 := by have := lastIdx_le a st.toNat; omega
  unfold Engine.advance
  rw [coordIdx_packCoord a st (by omega), coordStage_packCoord a st (by omega),
    coordAlg_packCoord a st (by omega), if_pos h, packCoord_add_one a st hidx]
  rfl

theorem Engine.advance_count (e : Engine) (a : Alg) :
    (e.goTo a 0#3 0).advance (packCoord a 0#3 0) = e.afterCount a := by
  cases a <;> rfl

theorem Engine.advance_pad (e : Engine) (a : Alg) :
    (e.goTo a 1#3 0).advance (packCoord a 1#3 0) = e.goTo a 2#3 0 := by
  cases a <;> rfl

theorem Engine.advance_loadMd5 (e : Engine) :
    (e.goTo .md5 2#3 15).advance (packCoord .md5 2#3 15) = e.enterRounds .md5 := rfl

theorem Engine.advance_loadSha1 (e : Engine) :
    (e.goTo .sha1 2#3 15).advance (packCoord .sha1 2#3 15) = e.goTo .sha1 3#3 16 := rfl

theorem Engine.advance_expandSha1 (e : Engine) :
    (e.goTo .sha1 3#3 79).advance (packCoord .sha1 3#3 79) = e.enterRounds .sha1 := rfl

theorem Engine.advance_round (e : Engine) (a : Alg) :
    (e.goTo a 4#3 (Config.nround a - 1)).advance (packCoord a 4#3 (Config.nround a - 1)) =
      e.goTo a 5#3 0 := by
  cases a <;> rfl

theorem Engine.advance_feedfwd (e : Engine) (a : Alg) :
    (e.goTo a 5#3 (Config.nreg a - 1)).advance (packCoord a 5#3 (Config.nreg a - 1)) =
      e.afterFeedfwd a := by
  cases a <;> rfl

theorem Engine.advance_format (e : Engine) (a : Alg) :
    (e.goTo a 6#3 (Config.nreg a - 1)).advance (packCoord a 6#3 (Config.nreg a - 1)) =
      e.retire e.work.buf := by
  cases a <;> rfl

/-! ## Running micro-operations -/

/-- The micro-operation at a coordinate takes the engine from `e` to `e'`; the coordinate itself is moved by the
sequencer afterwards. -/
def Engine.MicroOp (a : Alg) (st : BitVec 3) (idx : Nat) (e e' : Engine) : Prop :=
  ∃ i, decodeCoord (packCoord a st idx) = .instr i ∧
    ∀ s : State, exec i (s.withEng (e.goTo a st idx)) = .next (s.withEng (e'.goTo a st idx))

/-- `n` steps take the addressed engine from `e` to `e'` and touch nothing else of the machine. -/
def Engine.Reaches (n : Nat) (e e' : Engine) : Prop :=
  ∀ (s : State) (k : Nat), Sys2Proof.core.run (n + k) (s.withEng e) = Sys2Proof.core.run k (s.withEng e')

theorem Engine.Reaches.refl (e : Engine) : e.Reaches 0 e := fun s k => by rw [Nat.zero_add]

theorem Engine.Reaches.trans {m n : Nat} {e e' e'' : Engine} (h : e.Reaches m e') (h' : e'.Reaches n e'') :
    e.Reaches (m + n) e'' := fun s k => by rw [Nat.add_assoc, h s, h' s]

theorem run_succ_of_step {s t : State} (h : step s = .next t) (k : Nat) :
    Sys2Proof.core.run (k + 1) s = Sys2Proof.core.run k t := by
  have hcore : Sys2Proof.core.step s = .next t := h
  simp only [Host.Core.run, hcore]

/-- The step at a coordinate: its micro-operation, then the sequencer. -/
theorem step_of_microOp {a : Alg} {st : BitVec 3} {idx : Nat} {e e' : Engine}
    (h : Engine.MicroOp a st idx e e') (s : State) :
    step (s.withEng (e.goTo a st idx)) =
      .next (s.withEng ((e'.goTo a st idx).advance (packCoord a st idx))) := by
  obtain ⟨i, hdecode, hexec⟩ := h
  have hfetch : (s.withEng (e.goTo a st idx)).fetch = .micro (packCoord a st idx) i := by
    simp [State.fetch, Engine.goTo, hdecode]
  simp [step, hfetch, hexec]

theorem Engine.MicroOp.reaches {a : Alg} {st : BitVec 3} {idx : Nat} {e e' : Engine}
    (h : Engine.MicroOp a st idx e e') :
    (e.goTo a st idx).Reaches 1 ((e'.goTo a st idx).advance (packCoord a st idx)) := fun s k => by
  rw [Nat.add_comm 1 k]
  exact run_succ_of_step (step_of_microOp h s) k

/-- The rule for a stage: an assertion indexed by the number of micro-operations done, true at the first
coordinate and kept by each of them, holds when the sequencer leaves the last coordinate. -/
theorem Engine.reaches_stage {a : Alg} {st : BitVec 3} {first last count : Nat} {e : Engine}
    (P : Nat → Engine → Prop) (hlast : lastIdx a st.toNat = last) (hcount : first + count = last + 1)
    (hfirst : first ≤ last) (hstart : P 0 e)
    (hkeep : ∀ r < count, ∀ x, P r x → ∃ x', Engine.MicroOp a st (first + r) x x' ∧ P (r + 1) x') :
    ∃ e', P count e' ∧ (e.goTo a st first).Reaches count
      ((e'.goTo a st last).advance (packCoord a st last)) := by
  have hinside : ∀ r < count, ∃ x, P r x ∧ (e.goTo a st first).Reaches r (x.goTo a st (first + r)) := by
    intro r
    induction r with
    | zero => exact fun _ => ⟨e, hstart, .refl _⟩
    | succ r ih =>
      intro hr
      obtain ⟨x, hx, hreach⟩ := ih (by omega)
      obtain ⟨x', hop, hx'⟩ := hkeep r (by omega) x hx
      have hmove := hop.reaches
      rw [Engine.advance_within x' (by omega)] at hmove
      exact ⟨x', hx', hreach.trans hmove⟩
  obtain ⟨m, rfl⟩ : ∃ m, count = m + 1 := ⟨count - 1, by omega⟩
  obtain rfl : first + m = last := by omega
  obtain ⟨x, hx, hreach⟩ := hinside m (by omega)
  obtain ⟨e', hop, he'⟩ := hkeep m (by omega) x hx
  exact ⟨e', he', hreach.trans hop.reaches⟩

/-! ## COUNT and PAD: the buffer (10_state.md R47(a), 40_absorb_padding.md R133 to R140) -/

/-- The engine when the word load begins: the counter counts the block, the buffer holds it and its padding, and
`next` is decided. -/
def Engine.buffered (block : List Byte) (e : Engine) : Engine :=
  let count := countBits e.bitcount block.length
  let filled := fillBuffer e.h.alg block e.phase count
  { e with
    bitcount := count
    work := { e.work with block := block, buf := filled.1, next := filled.2 } }

theorem Engine.microOp_count (a : Alg) (e : Engine) :
    Engine.MicroOp a 0#3 0 e { e with bitcount := countBits e.bitcount e.work.block.length } :=
  ⟨.count a, decodeCoord_of_encode rfl, fun _ => rfl⟩

theorem Engine.microOp_pad (a : Alg) (e : Engine) :
    Engine.MicroOp a 1#3 0 e
      { e with work := { e.work with
        buf := (padBlock e.h.alg e.work.block e.phase.padPending e.bitcount).1
        next := (padBlock e.h.alg e.work.block e.phase.padPending e.bitcount).2 } } :=
  ⟨.pad a, decodeCoord_of_encode rfl, fun _ => rfl⟩

/-- An ABSORB begins at COUNT with its block handed over. -/
theorem Engine.begin_eq_goTo (e : Engine) (block : List Byte) :
    e.begin block = ({ e with work := { e.work with block := block } } : Engine).goTo e.h.alg 0#3 0 := rfl

/-- COUNT, and PAD unless the block is full, lead to the word load. -/
theorem Engine.reaches_buffered (e : Engine) (block : List Byte) :
    (e.begin block).Reaches (1 + if block.length = 64 then 0 else 1)
      ((e.buffered block).goTo e.h.alg 2#3 0) := by
  have hcount := (Engine.microOp_count e.h.alg { e with work := { e.work with block := block } }).reaches
  rw [Engine.advance_count, ← Engine.begin_eq_goTo] at hcount
  by_cases hfull : block.length = 64
  · simpa [hfull, Engine.afterCount, Engine.buffered, fillBuffer] using hcount
  · have hpad := (Engine.microOp_pad e.h.alg
      { e with
        bitcount := countBits e.bitcount block.length
        work := { e.work with block := block } }).reaches
    rw [Engine.advance_pad] at hpad
    simp only [Engine.afterCount, hfull, if_false] at hcount
    simpa [hfull, Engine.buffered, fillBuffer] using hcount.trans hpad

/-! ## A fold over the first indices of a loop -/

/-- A loop over `0` to `n - 1` after its first `r` turns. -/
def foldFirst {α : Type} {n : Nat} (f : α → Fin n → α) (x : α) (r : Nat) : α :=
  ((List.finRange n).take r).foldl f x

section FoldFirst

variable {α : Type} {n : Nat} (f : α → Fin n → α) (x : α)

@[simp] theorem foldFirst_zero : foldFirst f x 0 = x := rfl

theorem foldFirst_succ {r : Nat} (h : r < n) :
    foldFirst f x (r + 1) = f (foldFirst f x r) ⟨r, h⟩ := by
  simp [foldFirst, List.take_add_one, h]

theorem foldFirst_all : foldFirst f x n = (List.finRange n).foldl f x := by
  rw [foldFirst, List.take_of_length_le (by simp)]

end FoldFirst

/-! ## The word load and the schedule (41_block_load_schedule.md R161 to R164) -/

/-- The schedule store replaced. -/
def Engine.withSchedule (e : Engine) (w : Vector Word 80) : Engine :=
  { e with work := { e.work with w := w } }

/-- The first `r` of the 16 schedule words are those given; the other words may hold anything. -/
def Engine.Loaded (e : Engine) (words : Fin 16 → Word) (r : Nat) (e' : Engine) : Prop :=
  ∃ w : Vector Word 80, e' = e.withSchedule w ∧ ∀ j : Fin 16, j.val < r → w[j.val] = words j

theorem Engine.Loaded.start (e : Engine) (words : Fin 16 → Word) : e.Loaded words 0 e :=
  ⟨e.work.w, rfl, fun _ h => absurd h (Nat.not_lt_zero _)⟩

/-- Writing the next word. -/
theorem Engine.Loaded.setWord {e e' : Engine} {words : Fin 16 → Word} {j : Fin 16}
    (h : e.Loaded words j e') : e.Loaded words (j + 1) (e'.setWord j (words j)) := by
  obtain ⟨w, rfl, hw⟩ := h
  refine ⟨w.set j.val (words j), rfl, fun i hi => ?_⟩
  by_cases hij : i = j
  · subst hij
    simp
  · have hne : j.val ≠ i.val := fun heq => hij (Fin.ext heq.symm)
    rw [Vector.getElem_set_ne (h := hne)]
    exact hw i (by omega)

theorem Engine.microOp_loadMd5 (j : Fin 16) (e : Engine) :
    Engine.MicroOp .md5 2#3 j e (e.setWord j (md5Word e.work.buf j)) :=
  ⟨.loadMd5 j, decodeCoord_of_encode rfl, fun _ => rfl⟩

theorem Engine.microOp_loadSha1 (j : Fin 16) (e : Engine) :
    Engine.MicroOp .sha1 2#3 j e (e.setWord j (sha1Word e.work.buf j)) :=
  ⟨.loadSha1 j, decodeCoord_of_encode rfl, fun _ => rfl⟩

theorem Engine.microOp_expandSha1 (r : Fin 64) (e : Engine) :
    Engine.MicroOp .sha1 3#3 (16 + r) e (e.withSchedule (expandStep e.work.w r)) :=
  ⟨.expandSha1 r, decodeCoord_of_encode rfl, fun _ => rfl⟩

/-- The load stage of either algorithm, whose micro-operations write `word buf j` to word j. -/
theorem Engine.reaches_loaded {a : Alg} (word : Block → Fin 16 → Word) (e : Engine)
    (hop : ∀ (j : Fin 16) (x : Engine), Engine.MicroOp a 2#3 j x (x.setWord j (word x.work.buf j))) :
    ∃ w : Vector Word 80, (∀ j : Fin 16, w[j.val] = word e.work.buf j) ∧
      (e.goTo a 2#3 0).Reaches 16 (((e.withSchedule w).goTo a 2#3 15).advance (packCoord a 2#3 15)) := by
  obtain ⟨e', ⟨w, rfl, hw⟩, hreach⟩ :=
    Engine.reaches_stage (a := a) (st := 2#3) (first := 0) (last := 15) (count := 16)
      (e.Loaded (word e.work.buf)) rfl rfl (Nat.zero_le _) (.start e _) fun r hr e' he' => by
        have hop' := hop ⟨r, hr⟩ e'
        have hbuf : e'.work.buf = e.work.buf := by obtain ⟨w, rfl, -⟩ := he'; rfl
        rw [hbuf] at hop'
        exact ⟨_, by rwa [Nat.zero_add], he'.setWord (j := ⟨r, hr⟩)⟩
  exact ⟨w, fun j => hw j j.isLt, hreach⟩

theorem Engine.reaches_expanded (e : Engine) (w : Vector Word 80) :
    ((e.withSchedule w).goTo .sha1 3#3 16).Reaches 64
      ((e.withSchedule ((List.finRange 64).foldl expandStep w)).enterRounds .sha1) := by
  obtain ⟨e', rfl, hreach⟩ :=
    Engine.reaches_stage (a := .sha1) (st := 3#3) (first := 16) (last := 79) (count := 64)
      (fun r e' => e' = e.withSchedule (foldFirst expandStep w r)) rfl rfl (by decide) rfl
      fun r hr e' he' => by
        subst he'
        exact ⟨_, Engine.microOp_expandSha1 ⟨r, hr⟩ _, by rw [foldFirst_succ]; rfl⟩
  rwa [Engine.advance_expandSha1, foldFirst_all] at hreach

/-- The expansion reads only words that are loaded or already expanded, so what the store held in words 16 to 79
before does not matter. -/
theorem foldFirst_expandStep_congr {w w' : Vector Word 80}
    (h : ∀ t (_ : t < 16), w[t] = w'[t]) {r : Nat} (hr : r ≤ 64) :
    ∀ t (_ : t < 16 + r), (foldFirst expandStep w r)[t] = (foldFirst expandStep w' r)[t] := by
  induction r with
  | zero => exact h
  | succ r ih =>
    intro t ht
    have ih := ih (by omega)
    rw [foldFirst_succ _ _ (by omega), foldFirst_succ _ _ (by omega)]
    have hword : expandWord (foldFirst expandStep w r) ⟨r, by omega⟩ =
        expandWord (foldFirst expandStep w' r) ⟨r, by omega⟩ := by
      simp only [expandWord]
      rw [ih (r + 13) (by omega), ih (r + 8) (by omega), ih (r + 2) (by omega), ih r (by omega)]
    simp only [expandStep, hword, Vector.getElem_set]
    by_cases hnew : 16 + r = t
    · simp [hnew]
    · simpa [hnew] using ih t (by omega)

/-- After the 16 loads and the expansion the store is the schedule of the buffer. -/
theorem expanded_eq_scheduleSha1 {w : Vector Word 80} {buf : Block}
    (h : ∀ j : Fin 16, w[j.val] = sha1Word buf j) :
    (List.finRange 64).foldl expandStep w = scheduleSha1 buf := by
  have hloaded : ∀ t (_ : t < 16), w[t] = (loadedSha1 buf)[t] := fun t ht => by
    simpa [loadedSha1, ht] using h ⟨t, ht⟩
  rw [scheduleSha1, ← foldFirst_all, ← foldFirst_all]
  exact Vector.ext fun t ht => foldFirst_expandStep_congr hloaded le_rfl t ht

/-! ## The rounds (42_md5_compression.md R186 to R191, 43_sha1_compression.md R213 to R218) -/

/-- The first `r` rounds are done: the accumulators are those of the rounds, the two temporaries may hold
anything. -/
def Engine.RoundsDone {n : Nat} (e : Engine) (round : Acc → Fin n → Acc) (r : Nat) (e' : Engine) : Prop :=
  ∃ f temp, e' = { e with work := { e.work with acc := foldFirst round e.work.acc r, f := f, temp := temp } }

theorem Engine.RoundsDone.start {n : Nat} (e : Engine) (round : Acc → Fin n → Acc) : e.RoundsDone round 0 e :=
  ⟨e.work.f, e.work.temp, rfl⟩

/-- The function that round i applies to b, c, d (42_md5_compression.md R191). -/
def md5RoundFn (i : Nat) : Word → Word → Word → Word :=
  if i < 16 then md5FnF else if i < 32 then md5FnG else if i < 48 then md5FnH else md5FnI

theorem md5Fn_eq (i : Nat) (x : Acc) : md5Fn i x = md5RoundFn i x.b x.c x.d := by
  unfold md5Fn md5RoundFn
  split_ifs <;> rfl

/-- The function that round i applies to b, c, d (43_sha1_compression.md R218). -/
def sha1RoundFn (i : Nat) : Word → Word → Word → Word :=
  if i < 20 then sha1FnCh else if i < 40 then sha1FnPar else if i < 60 then sha1FnMaj else sha1FnPar

theorem sha1Fn_eq (i : Nat) (x : Acc) : sha1Fn i x = sha1RoundFn i x.b x.c x.d := by
  unfold sha1Fn sha1RoundFn
  split_ifs <;> rfl

/-- The four MD5 rows of 30_encoding.md R108 as one: the micro-operation of round i. -/
theorem Engine.microOp_md5Round (i : Fin 64) (e : Engine) :
    Engine.MicroOp .md5 4#3 i e (e.md5Micro i (md5RoundFn i) (md5Index i)) := by
  obtain ⟨i, hi⟩ := i
  rcases Nat.lt_or_ge i 16 with h16 | h16
  · simp (disch := omega) only [md5RoundFn, md5Index, if_pos]
    exact ⟨.md5F ⟨i, h16⟩, decodeCoord_of_encode rfl, fun _ => rfl⟩
  rcases Nat.lt_or_ge i 32 with h32 | h32
  · obtain ⟨r, rfl⟩ := Nat.exists_eq_add_of_le h16
    simp (disch := omega) only [md5RoundFn, md5Index, if_pos, if_neg]
    exact ⟨.md5G ⟨r, by omega⟩, decodeCoord_of_encode rfl, fun _ => rfl⟩
  rcases Nat.lt_or_ge i 48 with h48 | h48
  · obtain ⟨r, rfl⟩ := Nat.exists_eq_add_of_le h32
    simp (disch := omega) only [md5RoundFn, md5Index, if_pos, if_neg]
    exact ⟨.md5H ⟨r, by omega⟩, decodeCoord_of_encode rfl, fun _ => rfl⟩
  · obtain ⟨r, rfl⟩ := Nat.exists_eq_add_of_le h48
    simp (disch := omega) only [md5RoundFn, md5Index, if_neg]
    exact ⟨.md5I ⟨r, by omega⟩, decodeCoord_of_encode rfl, fun _ => rfl⟩

/-- The four SHA-1 rows of 30_encoding.md R108 as one: the micro-operation of round i. -/
theorem Engine.microOp_sha1Round (i : Fin 80) (e : Engine) :
    Engine.MicroOp .sha1 4#3 i e (e.sha1Micro i (sha1RoundFn i) (sha1K (i / 20))) := by
  obtain ⟨i, hi⟩ := i
  rcases Nat.lt_or_ge i 20 with h20 | h20
  · simp (disch := omega) only [sha1RoundFn, if_pos, Nat.div_eq_of_lt]
    exact ⟨.sha1Ch ⟨i, h20⟩, decodeCoord_of_encode rfl, fun _ => rfl⟩
  rcases Nat.lt_or_ge i 40 with h40 | h40
  · obtain ⟨r, rfl⟩ := Nat.exists_eq_add_of_le h20
    simp (disch := omega) only [sha1RoundFn, if_pos, if_neg, show (20 + r) / 20 = 1 by omega]
    exact ⟨.sha1Par1 ⟨r, by omega⟩, decodeCoord_of_encode rfl, fun _ => rfl⟩
  rcases Nat.lt_or_ge i 60 with h60 | h60
  · obtain ⟨r, rfl⟩ := Nat.exists_eq_add_of_le h40
    simp (disch := omega) only [sha1RoundFn, if_pos, if_neg, show (40 + r) / 20 = 2 by omega]
    exact ⟨.sha1Maj ⟨r, by omega⟩, decodeCoord_of_encode rfl, fun _ => rfl⟩
  · obtain ⟨r, rfl⟩ := Nat.exists_eq_add_of_le h60
    simp (disch := omega) only [sha1RoundFn, if_neg, show (60 + r) / 20 = 3 by omega]
    exact ⟨.sha1Par2 ⟨r, by omega⟩, decodeCoord_of_encode rfl, fun _ => rfl⟩

/-- An MD5 round micro-operation is a round of the compression when the schedule store holds the loaded
words. -/
theorem Engine.RoundsDone.md5Micro {e e' : Engine} {i : Fin 64}
    (hw : ∀ j : Fin 16, e.work.w[j.val] = md5Word e.work.buf j)
    (h : e.RoundsDone (md5Round (loadedMd5 e.work.buf)) i e') :
    e.RoundsDone (md5Round (loadedMd5 e.work.buf)) (i + 1) (e'.md5Micro i (md5RoundFn i) (md5Index i)) := by
  obtain ⟨f, temp, rfl⟩ := h
  refine ⟨md5Fn i (foldFirst (md5Round (loadedMd5 e.work.buf)) e.work.acc i), temp, ?_⟩
  have hword : (loadedMd5 e.work.buf).get (md5Index i) = e.work.w[(md5Index i).val] := by
    simp [loadedMd5, hw, Vector.get_eq_getElem]
  rw [foldFirst_succ _ _ i.isLt]
  simp only [md5Round, md5Fn_eq, hword]
  rfl

/-- A SHA-1 round micro-operation is a round of the compression with the schedule it finds. -/
theorem Engine.RoundsDone.sha1Micro {e e' : Engine} {i : Fin 80}
    (h : e.RoundsDone (sha1Round e.work.w) i e') :
    e.RoundsDone (sha1Round e.work.w) (i + 1) (e'.sha1Micro i (sha1RoundFn i) (sha1K (i / 20))) := by
  obtain ⟨f, temp, rfl⟩ := h
  let x := foldFirst (sha1Round e.work.w) e.work.acc i
  refine ⟨sha1Fn i x, sha1Temp (sha1Fn i x) (sha1K (i / 20)) (e.work.w.get i) x, ?_⟩
  rw [foldFirst_succ _ _ i.isLt]
  simp only [sha1Round, sha1Fn_eq]
  rfl

/-- The working state replaced. -/
def Engine.withWork (e : Engine) (k : Work) : Engine := { e with work := k }

/-- The engine at the first round: the schedule is `w`, the accumulators are seeded. -/
def Engine.seeded (e : Engine) (w : Vector Word 80) : Engine :=
  e.withWork { e.work with w := w, acc := e.work.acc.seed e.h }

/-- The working state `k` is ready for the feed-forward of `e`: its accumulators are `acc`, and the buffer and the
next phase are still those of `e`. Its other parts are not read any more. -/
def Engine.RoundsEnd (e : Engine) (acc : Acc) (k : Work) : Prop :=
  k.acc = acc ∧ k.buf = e.work.buf ∧ k.next = e.work.next

/-- The round stage of either algorithm, entered with the schedule `w`, whose micro-operations do `round`. -/
theorem Engine.reaches_roundsEnd {a : Alg} (round : Acc → Fin (Config.nround a) → Acc) (e : Engine)
    (w : Vector Word 80)
    (hop : ∀ (i : Fin (Config.nround a)) (x : Engine), (e.seeded w).RoundsDone round i x →
      ∃ x', Engine.MicroOp a 4#3 i x x' ∧ (e.seeded w).RoundsDone round (i + 1) x') :
    ∃ k, e.RoundsEnd ((List.finRange (Config.nround a)).foldl round (e.work.acc.seed e.h)) k ∧
      ((e.withSchedule w).enterRounds a).Reaches (Config.nround a) ((e.withWork k).goTo a 5#3 0) := by
  have hpos : 0 < Config.nround a := by cases a <;> decide
  obtain ⟨e', ⟨f, temp, rfl⟩, hreach⟩ :=
    Engine.reaches_stage (a := a) (st := 4#3) (first := 0) (last := Config.nround a - 1)
      (count := Config.nround a) ((e.seeded w).RoundsDone round) rfl (by omega) (Nat.zero_le _)
      (.start _ _) fun r hr x hx => by
        rw [Nat.zero_add]
        exact hop ⟨r, hr⟩ x hx
  rw [Engine.advance_round, foldFirst_all] at hreach
  refine ⟨_, ?_, hreach⟩
  exact ⟨rfl, rfl, rfl⟩

/-- The accumulators after all rounds of a block, from the seeded ones. -/
def roundsAcc (h : Regs) (buf : Block) (x : Acc) : Acc :=
  match h.alg with
  | .md5 => md5Rounds (loadedMd5 buf) (x.seed h)
  | .sha1 => sha1Rounds (scheduleSha1 buf) (x.seed h)

/-- The number of micro-operations from the word load to the last round. -/
def blockOps : Alg → Nat
  | .md5 => 16 + 64
  | .sha1 => 16 + 64 + 80

/-- Word load, expansion and rounds compute the accumulators of the compression. -/
theorem Engine.reaches_rounds (e : Engine) :
    ∃ k, e.RoundsEnd (roundsAcc e.h e.work.buf e.work.acc) k ∧
      (e.goTo e.h.alg 2#3 0).Reaches (blockOps e.h.alg) ((e.withWork k).goTo e.h.alg 5#3 0) := by
  unfold roundsAcc
  cases e.h.alg with
  | md5 =>
    obtain ⟨w, hw, hload⟩ := e.reaches_loaded md5Word Engine.microOp_loadMd5
    rw [Engine.advance_loadMd5] at hload
    obtain ⟨k, hk, hrounds⟩ := e.reaches_roundsEnd (a := .md5) (md5Round (loadedMd5 e.work.buf)) w
      fun i x hx => ⟨_, Engine.microOp_md5Round i x, hx.md5Micro hw⟩
    exact ⟨k, hk, hload.trans hrounds⟩
  | sha1 =>
    obtain ⟨w, hw, hload⟩ := e.reaches_loaded sha1Word Engine.microOp_loadSha1
    rw [Engine.advance_loadSha1] at hload
    have hexpand := e.reaches_expanded w
    rw [expanded_eq_scheduleSha1 hw] at hexpand
    obtain ⟨k, hk, hrounds⟩ := e.reaches_roundsEnd (a := .sha1) (sha1Round (scheduleSha1 e.work.buf)) _
      fun i x hx => ⟨_, Engine.microOp_sha1Round i x, hx.sha1Micro⟩
    exact ⟨k, hk, (hload.trans hexpand).trans hrounds⟩

/-! ## The feed-forward (42_md5_compression.md R192, 43_sha1_compression.md R219) -/

/-- The registers after the first `r` feed-forwards. -/
def Regs.fedForward (h : Regs) (x : Acc) : Nat → Regs
  | 0 => h
  | r + 1 => ((h.fedForward x r).add r (x.get r)).getD (h.fedForward x r)

theorem Regs.fedForward_alg (h : Regs) (x : Acc) {r : Nat} (hr : r ≤ Config.nreg h.alg) :
    (h.fedForward x r).alg = h.alg := by
  induction r with
  | zero => rfl
  | succ r ih =>
    have ih := ih (by omega)
    obtain ⟨h', hadd, halg, -⟩ := ((h.fedForward x r).add_eq r (x.get r)).1 (by rw [ih]; omega)
    rw [Regs.fedForward, hadd, Option.getD_some, halg, ih]

/-- Every register that exists can take its accumulator. -/
theorem Regs.add_fedForward (h : Regs) (x : Acc) {r : Nat} (hr : r < Config.nreg h.alg) :
    (h.fedForward x r).add r (x.get r) = some (h.fedForward x (r + 1)) := by
  obtain ⟨h', hadd, -, -⟩ :=
    ((h.fedForward x r).add_eq r (x.get r)).1 (by rwa [h.fedForward_alg x (by omega)])
  rw [Regs.fedForward, hadd, Option.getD_some]

/-- An MD5 round neither reads nor changes accumulator e. -/
theorem md5Rounds_e (w : Vector Word 16) (x : Acc) (v : Word) :
    md5Rounds w { x with e := v } = { md5Rounds w x with e := v } := by
  rw [md5Rounds, md5Rounds]
  exact List.foldl_hom (fun y : Acc => { y with e := v }) (g₁ := md5Round w) (g₂ := md5Round w)
    fun _ _ => rfl

/-- The feed-forward of all registers completes the compression. -/
theorem Regs.fedForward_rounds (h : Regs) (buf : Block) (x : Acc) :
    h.fedForward (roundsAcc h buf x) (Config.nreg h.alg) = compress h buf := by
  cases h with
  | md5 A B C D =>
    have hrounds := md5Rounds_e (loadedMd5 buf) ⟨A, B, C, D, 0#32⟩ x.e
    simp only [roundsAcc, Regs.alg, Acc.seed, hrounds]
    rfl
  | sha1 A B C D E => rfl

theorem Engine.microOp_feedfwd {e : Engine} {r : Nat} {h : Regs} (hr : r < Config.nreg e.h.alg)
    (hadd : e.h.add r (e.work.acc.get r) = some h) :
    Engine.MicroOp e.h.alg 5#3 r e { e with h := h } := by
  cases halg : e.h.alg with
  | md5 =>
    rw [halg] at hr
    exact ⟨.feedfwdMd5 ⟨r, hr⟩, decodeCoord_of_encode rfl, fun s => by
      simp [exec, execFeedfwdMd5, Engine.goTo, hadd, State.withEng]⟩
  | sha1 =>
    rw [halg] at hr
    exact ⟨.feedfwdSha1 ⟨r, hr⟩, decodeCoord_of_encode rfl, fun s => by
      simp [exec, execFeedfwdSha1, Engine.goTo, hadd, State.withEng]⟩

/-- The feed-forward stage leaves the registers of the compression. -/
theorem Engine.reaches_fedForward (e : Engine) :
    (e.goTo e.h.alg 5#3 0).Reaches (Config.nreg e.h.alg)
      (Engine.afterFeedfwd { e with h := e.h.fedForward e.work.acc (Config.nreg e.h.alg) } e.h.alg) := by
  have hpos : 0 < Config.nreg e.h.alg := by cases e.h.alg <;> decide
  obtain ⟨e', rfl, hreach⟩ :=
    Engine.reaches_stage (a := e.h.alg) (st := 5#3) (first := 0) (last := Config.nreg e.h.alg - 1)
      (count := Config.nreg e.h.alg)
      (fun r e' => e' = { e with h := e.h.fedForward e.work.acc r }) rfl (by omega) (Nat.zero_le _) rfl
      fun r hr e' he' => by
        subst he'
        have halg := e.h.fedForward_alg e.work.acc hr.le
        have hop := Engine.microOp_feedfwd (e := { e with h := e.h.fedForward e.work.acc r })
          (by rwa [halg]) (e.h.add_fedForward e.work.acc hr)
        rw [halg] at hop
        exact ⟨_, by rwa [Nat.zero_add], rfl⟩
  rwa [Engine.advance_feedfwd] at hreach

/-! ## The digest (44_digest_formatter.md R241 to R244) -/

/-- Writes of consecutive addresses, in two parts. -/
theorem Memory.writeList_append {β : Type} (m : Memory β) (a : Nat) (l l' : List β) :
    m.writeList a (l ++ l') = (m.writeList a l).writeList (a + l.length) l' := by
  induction l generalizing m a with
  | nil => rfl
  | cons v rest ih =>
    rw [List.cons_append, Memory.writeList, ih, Memory.writeList, List.length_cons, Nat.add_assoc,
      Nat.add_comm 1]

/-- The digest bytes of the first `r` registers. -/
def serializeFirst (h : Regs) (r : Nat) : List Byte := (h.words.take r).flatMap fun v => nativeBytes h.alg v 4

theorem serializeFirst_all (h : Regs) : serializeFirst h (Config.nreg h.alg) = serialize h := by
  rw [serializeFirst, serialize, List.take_of_length_le (by rw [Regs.words_length])]

theorem serializeFirst_succ {h : Regs} {r : Nat} {v : Word} (hv : h.get r = some v) :
    serializeFirst h (r + 1) = serializeFirst h r ++ nativeBytes h.alg v 4 := by
  rw [Regs.get] at hv
  simp [serializeFirst, List.take_add_one, hv]

theorem nativeBytes_length {m : Nat} (a : Alg) (v : BitVec m) (count : Nat) :
    (nativeBytes a v count).length = count := by
  cases a <;> simp [nativeBytes, leBytes, beBytes]

theorem serializeFirst_length (h : Regs) {r : Nat} (hr : r ≤ Config.nreg h.alg) :
    (serializeFirst h r).length = 4 * r := by
  simp [serializeFirst, List.length_flatMap, nativeBytes_length]
  omega

theorem hexstr_append (l l' : List Byte) : hexstr (l ++ l') = hexstr l ++ hexstr l' :=
  List.flatMap_append

theorem hexstr_length (l : List Byte) : (hexstr l).length = 2 * l.length := by
  simp [hexstr, List.length_flatMap, hexOfByte]
  omega

/-- The stores hold the first `r` registers. -/
def Engine.formatted (e : Engine) (r : Nat) : Engine :=
  { e with
    digest := Memory.ofList (serializeFirst e.h r)
    hex := Memory.ofList (hexstr (serializeFirst e.h r)) }

theorem Engine.formatted_all (e : Engine) : e.formatted (Config.nreg e.h.alg) = e.format := by
  rw [Engine.formatted, Engine.format, serializeFirst_all]

/-- The next register goes to the next free addresses of both stores. -/
theorem Engine.storeDigest_formatted {e : Engine} {r : Nat} {v : Word} (hv : e.h.get r = some v)
    (hr : r ≤ Config.nreg e.h.alg) :
    (e.formatted r).storeDigest r (nativeBytes e.h.alg v 4) = e.formatted (r + 1) := by
  have hdigest : (serializeFirst e.h r).length = 4 * r := serializeFirst_length e.h hr
  have hhex : (hexstr (serializeFirst e.h r)).length = 8 * r := by rw [hexstr_length]; omega
  simp only [Engine.storeDigest, Engine.formatted, serializeFirst_succ hv, hexstr_append, Memory.ofList,
    Memory.writeList_append, hdigest, hhex, Nat.zero_add]

theorem Engine.microOp_format {e : Engine} {r : Nat} {v : Word} (hr : r < Config.nreg e.h.alg)
    (hv : e.h.get r = some v) :
    Engine.MicroOp e.h.alg 6#3 r e (e.storeDigest r (nativeBytes e.h.alg v 4)) := by
  cases halg : e.h.alg with
  | md5 =>
    rw [halg] at hr
    exact ⟨.formatMd5 ⟨r, hr⟩, decodeCoord_of_encode rfl, fun s => by
      simp [exec, execFormatMd5, Engine.goTo, hv, Engine.storeDigest, nativeBytes, State.withEng]⟩
  | sha1 =>
    rw [halg] at hr
    exact ⟨.formatSha1 ⟨r, hr⟩, decodeCoord_of_encode rfl, fun s => by
      simp [exec, execFormatSha1, Engine.goTo, hv, Engine.storeDigest, nativeBytes, State.withEng]⟩

/-- The FORMAT stage, from empty stores, writes the digest and retires the ABSORB. -/
theorem Engine.reaches_formatted {e : Engine} (hdigest : e.digest = []) (hhex : e.hex = []) :
    (e.goTo e.h.alg 6#3 0).Reaches (Config.nreg e.h.alg) (e.format.retire e.work.buf) := by
  have hpos : 0 < Config.nreg e.h.alg := by cases e.h.alg <;> decide
  have hstart : e = e.formatted 0 := by
    show e = { e with digest := [], hex := [] }
    rw [← hdigest, ← hhex]
  obtain ⟨e', rfl, hreach⟩ :=
    Engine.reaches_stage (a := e.h.alg) (st := 6#3) (first := 0) (last := Config.nreg e.h.alg - 1)
      (count := Config.nreg e.h.alg) (fun r e' => e' = e.formatted r) rfl (by omega) (Nat.zero_le _) hstart
      fun r hr e' he' => by
        subst he'
        obtain ⟨v, hv⟩ : ∃ v, e.h.get r = some v :=
          ⟨_, List.getElem?_eq_getElem (by rwa [Regs.words_length])⟩
        exact ⟨_, by rw [Nat.zero_add]; exact Engine.microOp_format (e := e.formatted r) hr hv,
          Engine.storeDigest_formatted hv hr.le⟩
  rwa [Engine.advance_format, Engine.formatted_all] at hreach

/-! ## The whole ABSORB -/

/-- The number of micro-operations, stage by stage. -/
theorem useqOrder_length (a : Alg) (n : Nat) :
    (useqOrder a n).length =
      1 + (if n = 64 then 0 else 1) + blockOps a + Config.nreg a + (if n ≤ 55 then Config.nreg a else 0) := by
  cases a <;> simp [useqOrder, blockOps, Config.nround] <;> split_ifs <;> rfl

/-- The length field fits behind at most 56 bytes of content (40_absorb_padding.md R138, R139). -/
theorem padBlock_next_eq_done (a : Alg) (block : List Byte) (padPending : Bool) (count : BitVec 64) :
    (padBlock a block padPending count).2 = .done ↔ (padContent block padPending).length ≤ 56 := by
  have hroom : Config.lenBytes ≤ Config.blockBytes - (padContent block padPending).length ↔
      (padContent block padPending).length ≤ 56 := by
    rw [Config.lenBytes, Config.blockBytes]
    omega
  by_cases hfits : (padContent block padPending).length ≤ 56
  · rw [padBlock, if_pos (hroom.2 hfits)]
    exact iff_of_true rfl hfits
  · rw [padBlock, if_neg (fun h => hfits (hroom.1 h))]
    exact iff_of_false (by simp) hfits

/-- The block of an accepted ABSORB bears the length field exactly when it has at most 55 bytes. -/
theorem Engine.Accepts.next_eq_done {e : Engine} {block : List Byte} (h : e.Accepts block.length)
    (count : BitVec 64) : (fillBuffer e.h.alg block e.phase count).2 = .done ↔ block.length ≤ 55 := by
  obtain ⟨⟨hphase, -⟩ | ⟨hphase, hlen⟩, -⟩ := h
  · rw [hphase, fillBuffer]
    by_cases hfull : block.length = 64
    · simp [hfull]
    · have hcontent : (padContent block Phase.awaitingData.padPending).length = block.length + 1 :=
        List.length_append
      rw [if_neg hfull, padBlock_next_eq_done, hcontent]
      omega
  · obtain rfl := List.eq_nil_of_length_eq_zero hlen
    rw [hphase, fillBuffer, if_neg (by decide), padBlock_next_eq_done]
    simp [padContent, Phase.padPending]

theorem Phase.fullyPadded_iff (p : Phase) : p.fullyPadded = true ↔ p = .done := by
  cases p <;> simp [Phase.fullyPadded]

/-- After the feed-forward of the final block FORMAT runs. -/
theorem Engine.afterFeedfwd_of_done {e : Engine} (h : e.work.next = .done) (a : Alg) :
    e.afterFeedfwd a = ({ e with phase := e.work.next } : Engine).goTo a 6#3 0 := by
  simp [Engine.afterFeedfwd, Phase.fullyPadded_iff, h]

/-- After the feed-forward of any other block the ABSORB is over. -/
theorem Engine.afterFeedfwd_of_not_done {e : Engine} (h : e.work.next ≠ .done) (a : Alg) :
    e.afterFeedfwd a = ({ e with phase := e.work.next } : Engine).retire e.work.buf := by
  simp [Engine.afterFeedfwd, Phase.fullyPadded_iff, h]

/-- The engine when the feed-forward is over and the phase is written; its working state `k` is dead. -/
def Engine.compressed (e : Engine) (block : List Byte) (k : Work) : Engine :=
  { (e.buffered block).withWork k with h := compress e.h k.buf, phase := k.next }

/-- The atomic ABSORB ends as the sequencer does: the working state is replaced when it retires. -/
theorem Engine.absorbBody_eq {e : Engine} {block : List Byte} {k : Work}
    (hbuf : k.buf = (e.buffered block).work.buf) (hnext : k.next = (e.buffered block).work.next) :
    e.absorbBody block =
      (if k.next = .done then (e.compressed block k).format else e.compressed block k).retire k.buf := by
  have hbody : e.absorbBody block = e.absorbWith (e.buffered block).bitcount k.buf k.next := by
    rw [hbuf, hnext]
    rfl
  rw [hbody, Engine.absorbWith]
  split_ifs <;> rfl

/-- From the feed-forward to the end of the ABSORB. -/
theorem Engine.reaches_absorbed {e : Engine} {block : List Byte} {k : Work}
    (hdigest : e.digest = []) (hhex : e.hex = [])
    (hk : (e.buffered block).RoundsEnd (roundsAcc e.h (e.buffered block).work.buf e.work.acc) k) :
    (((e.buffered block).withWork k).goTo e.h.alg 5#3 0).Reaches
      (Config.nreg e.h.alg + if (e.buffered block).work.next = .done then Config.nreg e.h.alg else 0)
      (e.absorbBody block) := by
  obtain ⟨hacc, hbuf, hnext⟩ := hk
  have hregs : e.h.fedForward k.acc (Config.nreg e.h.alg) = compress e.h k.buf := by
    rw [hacc, Regs.fedForward_rounds, hbuf]
  have hfeed : (((e.buffered block).withWork k).goTo e.h.alg 5#3 0).Reaches (Config.nreg e.h.alg)
      (Engine.afterFeedfwd { (e.buffered block).withWork k with h := compress e.h k.buf } e.h.alg) :=
    hregs ▸ ((e.buffered block).withWork k).reaches_fedForward
  rw [Engine.absorbBody_eq hbuf hnext, ← hnext]
  by_cases hdone : k.next = .done
  · have hformat := Engine.reaches_formatted (e := e.compressed block k) hdigest hhex
    rw [show (e.compressed block k).h.alg = e.h.alg from compress_alg e.h k.buf] at hformat
    rw [Engine.afterFeedfwd_of_done hdone] at hfeed
    rw [if_pos hdone, if_pos hdone]
    exact hfeed.trans hformat
  · rw [Engine.afterFeedfwd_of_not_done hdone] at hfeed
    rw [if_neg hdone, if_neg hdone]
    exact hfeed

/-- Settles O36: the stages of the sequencer one after the other, counted by the order of 10_state.md R45. -/
theorem microOperationsRefineAbsorb : Obligations.MicroOperationsRefineAbsorb := by
  intro s block haccepts hdigest hhex
  obtain ⟨k, hk, hrounds⟩ := (s.eng.buffered block).reaches_rounds
  have habsorb : (s.eng.begin block).Reaches (useqOrder s.eng.h.alg block.length).length
      (s.eng.absorbBody block) := by
    rw [useqOrder_length, Nat.add_assoc _ (Config.nreg _)]
    simp only [← haccepts.next_eq_done (countBits s.eng.bitcount block.length)]
    exact ((s.eng.reaches_buffered block).trans hrounds).trans (Engine.reaches_absorbed hdigest hhex hk)
  have hadmitted : exec (.absorb block) s = .next (s.withEng (s.eng.absorbBody block)) := by
    simp only [exec, execAbsorb, Engine.gated, (s.eng.admission_eq_admitted block.length).2 haccepts]
  rw [hadmitted]
  exact habsorb s 0

end Sys2Proof.Machine
end

section
/-! PROOFS. Family 10_state.md: what a step does to an engine between commands (R51), the counter (R42), and
register E (R32). -/

namespace Sys2Proof.Machine

/-! ## Registers that do not exist (10_state.md R31, R32) -/

theorem Regs.get_eq_none {h : Regs} {r : Nat} : h.get r = none ↔ Config.nreg h.alg ≤ r := by
  rw [Regs.get, List.getElem?_eq_none_iff, Regs.words_length]

/-- Four bytes for each register (44_digest_formatter.md R241, R242). -/
theorem serialize_length (h : Regs) : (serialize h).length = 4 * Config.nreg h.alg := by
  rw [← serializeFirst_all, serializeFirst_length h le_rfl]

/-- Settles O34: MD5 has four registers, and both micro-operations look for the fifth. -/
theorem registerEDoesNotExistForMd5 : Obligations.RegisterEDoesNotExistForMd5 := by
  intro s halg
  have hcount : Config.nreg s.eng.h.alg = 4 := by rw [halg]; rfl
  have hget : s.eng.h.get 4 = none := Regs.get_eq_none.2 hcount.le
  refine ⟨hget, fun buf => ?_, ?_, ?_, ?_⟩
  · exact Regs.get_eq_none.2 (by rw [compress_alg, hcount])
  · rw [serialize_length, hcount]
  · have hadd : s.eng.h.add 4 (s.eng.work.acc.get 4) = none := (Regs.add_eq _ _ _).2 hcount.le
    simp [exec, execFeedfwdSha1, hadd]
  · simp [exec, execFormatSha1, hget]

/-! ## What a step fetches (10_state.md R45, 20_memory.md R80) -/

theorem State.fetch_of_coord {s : State} {c : BitVec 11} {i : Instr} (hc : s.eng.useq = some c)
    (hi : decodeCoord c = .instr i) : s.fetch = .micro c i := by
  simp only [State.fetch, hc, hi]

/-- Outside an ABSORB the inputs are read. -/
theorem State.fetch_of_rest {s : State} (h : s.eng.useq = none) : s.fetch = s.fetchInput := by
  simp only [State.fetch, h]

/-- Settles O6. -/
theorem stepRunsTheMicroOperation : Obligations.StepRunsTheMicroOperation := by
  intro s t c i hc hi hexec
  simp only [step, State.fetch_of_coord hc hi, hexec]
  rfl

/-- The instructions that command words stand for (30_encoding.md R102 to R104); the cases of ABSORB share its
word. -/
inductive FromHost : Instr → Prop
  | init (a : Alg) : FromHost (.init a)
  | absorb (block : List Byte) : FromHost (.absorb block)
  | abort : FromHost .abort

theorem decodeCommand_fromHost {word : BitVec 16} {payload : List Byte} {i : Instr}
    (h : decodeCommand word payload = .instr i) : FromHost i := by
  simp only [decodeCommand, bare] at h
  split at h
  · cases h
  split at h
  · split_ifs at h
    cases h
    exact .init _
  · split_ifs at h
    cases h
    exact .absorb _
  · split_ifs at h
    cases h
    exact .abort
  · cases h

/-- What the oldest input can be. Taking it changes no engine. -/
theorem State.fetchInput_cases (s : State) :
    s.fetchInput = .idle ∨ (∃ r, s.fetchInput = .stop r) ∨
    ∃ u : State, u.engines = s.engines ∧
      (s.fetchInput = .resetEvent u ∨ s.fetchInput = .reservedWord u ∨
        ∃ i, FromHost i ∧ s.fetchInput = .command i u) := by
  unfold State.fetchInput
  split
  · exact .inl rfl
  · exact .inr (.inr ⟨_, by rfl, .inl rfl⟩)
  · split
    · exact .inr (.inl ⟨_, rfl⟩)
    · next u hselect =>
      obtain ⟨-, hengines, -, -⟩ := State.select_some hselect
      unfold fetchCommand
      split
      · next i hi => exact .inr (.inr ⟨u, hengines, .inr (.inr ⟨i, decodeCommand_fromHost hi, rfl⟩)⟩)
      · exact .inr (.inr ⟨u, hengines, .inr (.inl rfl)⟩)
      · exact .inr (.inl ⟨_, rfl⟩)
      · exact .inr (.inl ⟨_, rfl⟩)

/-! ## What a step can do to an engine between commands -/

/-- What becomes of an engine in a step outside an ABSORB: it stays as it is, it is created anew, it faults, it
absorbs a block that it accepts, or it is reset. -/
inductive Engine.Becomes (e : Engine) : Engine → Prop
  | same : e.Becomes e
  | created (a : Alg) : e.Becomes (e.create a)
  | raised (c : FaultCode) (hc : c ≠ .none) : e.Becomes (e.raise c)
  | absorbed (block : List Byte) (h : e.Accepts block.length) : e.Becomes (e.absorbBody block)
  | reset : e.Becomes e.hardReset

theorem Engine.becomes_gated (e : Engine) (block : List Byte) :
    e.Becomes (e.gated block.length (Engine.absorbBody block)) := by
  obtain ⟨-, h⟩ | ⟨-, c, hc, -, h⟩ | ⟨haccepts, h⟩ := e.gated_cases block.length (Engine.absorbBody block)
  · rw [h]; exact .same
  · rw [h]; exact .raised c hc
  · rw [h]; exact .absorbed block haccepts

theorem Engine.becomes_abandon (e : Engine) : e.Becomes e.abandon := by
  unfold Engine.abandon
  split
  case h_1 | h_2 => exact .same
  all_goals exact .raised _ (by decide)

theorem Engine.becomes_badCommand (e : Engine) : e.Becomes e.badCommand := by
  unfold Engine.badCommand
  split
  case h_1 => exact .same
  all_goals exact .raised _ (by decide)

/-- A command of the host does one of these things to the addressed engine. -/
theorem FromHost.becomes {i : Instr} {s t : State} (hi : FromHost i) (h : exec i s = .next t) :
    s.eng.Becomes t.eng := by
  cases hi with
  | init a => cases h; exact .created a
  | absorb block => cases h; exact s.eng.becomes_gated block
  | abort => cases h; exact s.eng.becomes_abandon

/-- Only the addressed engine is touched when it alone is replaced. -/
theorem State.becomes_withEng {s u : State} {x : Engine} (hengines : u.engines = s.engines)
    (hx : u.eng.Becomes x) : ∀ e' ∈ (u.withEng x).engines, ∃ e ∈ s.engines, e.Becomes e' := by
  intro e' he'
  rw [← hengines]
  obtain hmem | rfl | hmem := State.mem_engines.1 he'
  · exact ⟨e', State.mem_engines.2 (.inl hmem), .same⟩
  · exact ⟨u.eng, State.mem_engines.2 (.inr (.inl rfl)), hx⟩
  · exact ⟨e', State.mem_engines.2 (.inr (.inr hmem)), .same⟩

theorem State.hardReset_engines (s : State) : s.hardReset.engines = s.engines.map Engine.hardReset := by
  simp [State.hardReset, State.engines]

/-- Everything a step outside an ABSORB does to the instances. -/
theorem step_becomes {s t : State} (hrest : s.eng.useq = none) (h : step s = .next t) :
    ∀ e' ∈ t.engines, ∃ e ∈ s.engines, e.Becomes e' := by
  have hfetch := State.fetch_of_rest hrest
  rw [step, hfetch] at h
  obtain hidle | ⟨r, hstop⟩ | ⟨u, hengines, hreset | hword | ⟨i, hi, hcommand⟩⟩ := s.fetchInput_cases
  · rw [hidle] at h
    cases h
    exact fun e he => ⟨e, he, .same⟩
  · rw [hstop] at h
    cases h
  · rw [hreset] at h
    cases h
    intro e' he'
    rw [State.hardReset_engines, hengines] at he'
    obtain ⟨e, he, rfl⟩ := List.mem_map.1 he'
    exact ⟨e, he, .reset⟩
  · rw [hword] at h
    cases h
    exact State.becomes_withEng hengines u.eng.becomes_badCommand
  · rw [hcommand] at h
    rw [exec_next_frame h]
    exact State.becomes_withEng hengines (hi.becomes h)

/-! ## An accepted ABSORB, field by field (40_absorb_padding.md R131, R133, R141) -/

theorem Engine.absorbBody_fields (e : Engine) (block : List Byte) :
    let b := e.buffered block
    let t := e.absorbBody block
    t.phase = b.work.next ∧ t.h = compress e.h b.work.buf ∧ t.bitcount = b.bitcount ∧
    t.useq = none ∧ t.fault = e.fault ∧
    t.digest = (if b.work.next = .done then Memory.ofList (serialize t.h) else e.digest) ∧
    t.hex = (if b.work.next = .done then Memory.ofList (hexstr (serialize t.h)) else e.hex) := by
  obtain ⟨hphase, hh, hcount, -, huseq, hfault, -, -, hdigest, hhex⟩ := e.absorbWith_fields
    (e.buffered block).bitcount (e.buffered block).work.buf (e.buffered block).work.next
  rw [← hh] at hdigest hhex
  exact ⟨hphase, hh, hcount, huseq, hfault, hdigest, hhex⟩

/-- Admission has excluded a wrap (40_absorb_padding.md R132). -/
theorem Engine.Accepts.bitcount_toNat {e : Engine} {block : List Byte} (h : e.Accepts block.length) :
    (e.buffered block).bitcount.toNat = e.bitcount.toNat + 8 * block.length := by
  obtain ⟨-, hroom⟩ := h
  rw [Engine.buffered, countBits, BitVec.toNat_add, BitVec.toNat_ofNat]
  omega

/-- Settles O20: of the three things a gated ABSORB can do only the accepted one ends outside FAULTED. -/
theorem counterCountsMessageBits : Obligations.CounterCountsMessageBits := by
  intro block s t h hphase
  cases h
  obtain ⟨hfaulted, hgated⟩ | ⟨-, c, -, -, hgated⟩ | ⟨haccepts, hgated⟩ :=
    s.eng.gated_cases block.length (Engine.absorbBody block)
  · rw [State.withEng_eng, hgated] at hphase
    exact absurd hfaulted hphase
  · rw [State.withEng_eng, hgated] at hphase
    exact absurd (Engine.raise_phase s.eng c) hphase
  · obtain ⟨-, -, hcount, -⟩ := s.eng.absorbBody_fields block
    rw [State.withEng_eng, hgated, hcount, haccepts.bitcount_toNat]

/-- A computation that accepts an ABSORB exists and is not complete. -/
theorem Engine.Accepts.phase_running {e : Engine} {n : Nat} (h : e.Accepts n) :
    e.phase.live = true ∧ e.phase ≠ .done ∧ e.phase ≠ .faulted := by
  obtain ⟨⟨hphase, -⟩ | ⟨hphase, -⟩, -⟩ := h <;> simp [hphase, Phase.live]

/-- PAD ends in one of two phases (40_absorb_padding.md R139). -/
theorem padBlock_next (a : Alg) (block : List Byte) (padPending : Bool) (count : BitVec 64) :
    (padBlock a block padPending count).2 = .done ∨
      (padBlock a block padPending count).2 = .awaitingLengthBlock := by
  simp only [padBlock]
  split_ifs
  · exact .inl rfl
  · exact .inr rfl

/-- The phase before and after an accepted ABSORB, by the length of its block (40_absorb_padding.md R141). -/
theorem Engine.Accepts.next_cases {e : Engine} {block : List Byte} (h : e.Accepts block.length) :
    let next := (e.buffered block).work.next
    (block.length = 64 ∧ e.phase = .awaitingData ∧ next = .awaitingData) ∨
    (56 ≤ block.length ∧ block.length ≤ 63 ∧ e.phase = .awaitingData ∧ next = .awaitingLengthBlock) ∨
    (block.length ≤ 55 ∧ (e.phase = .awaitingData ∨ e.phase = .awaitingLengthBlock) ∧ next = .done) := by
  have hdone := h.next_eq_done (countBits e.bitcount block.length)
  obtain ⟨⟨hdata, hlen⟩ | ⟨howing, hlen⟩, -⟩ := h
  · by_cases hshort : block.length ≤ 55
    · exact .inr (.inr ⟨hshort, .inl hdata, hdone.2 hshort⟩)
    by_cases hfull : block.length = 64
    · exact .inl ⟨hfull, hdata, by simp only [Engine.buffered, fillBuffer, if_pos hfull]⟩
    · refine .inr (.inl ⟨by omega, by omega, hdata, ?_⟩)
      simp only [Engine.buffered, fillBuffer, if_neg hfull] at hdone ⊢
      exact (padBlock_next ..).resolve_left fun h => hshort (hdone.1 h)
  · exact .inr (.inr ⟨by omega, .inr howing, hdone.2 (by omega)⟩)

/-! ## The invariants between commands (10_state.md R51) -/

/-- Where no computation exists the invariants ask for empty stores and the right fault code alone. -/
theorem Engine.betweenCommands_of_not_live {e : Engine} (hlive : e.phase.live = false) (huseq : e.useq = none)
    (hdigest : e.digest = []) (hhex : e.hex = []) (hfault : e.fault ≠ .none ↔ e.phase = .faulted) :
    e.BetweenCommands := by
  have hnot : ∀ p : Phase, p.live = true → e.phase ≠ p := by
    rintro p hp rfl
    exact absurd hlive (by simp [hp])
  exact ⟨huseq, fun _ => ⟨hdigest, hhex⟩, fun h => absurd h (hnot _ rfl), hfault,
    fun h => absurd rfl (hnot _ h), fun h => absurd h (hnot _ rfl), fun h => absurd h (hnot _ rfl)⟩

theorem Engine.betweenCommands_hardReset (e : Engine) : e.hardReset.BetweenCommands :=
  Engine.betweenCommands_of_not_live rfl rfl rfl rfl (by simp)

theorem Engine.betweenCommands_reset (k : Nat) : (Engine.reset k).BetweenCommands :=
  Engine.betweenCommands_of_not_live rfl rfl rfl rfl (by simp [Engine.reset])

theorem Engine.BetweenCommands.raise {e : Engine} (h : e.BetweenCommands) {c : FaultCode} (hc : c ≠ .none) :
    (e.raise c).BetweenCommands := by
  obtain ⟨huseq, -⟩ := h
  exact Engine.betweenCommands_of_not_live rfl huseq rfl rfl (iff_of_true hc rfl)

theorem Engine.BetweenCommands.create {e : Engine} (h : e.BetweenCommands) (a : Alg) :
    (e.create a).BetweenCommands := by
  obtain ⟨huseq, -⟩ := h
  simp [Engine.BetweenCommands, huseq]

theorem Engine.BetweenCommands.absorbBody {e : Engine} (h : e.BetweenCommands) {block : List Byte}
    (haccepts : e.Accepts block.length) : (e.absorbBody block).BetweenCommands := by
  obtain ⟨-, habsent, -, hfault, hbytes, hblocks, -⟩ := h
  obtain ⟨hlive, hnotDone, hnotFaulted⟩ := haccepts.phase_running
  obtain ⟨hnoDigest, hnoHex⟩ := habsent hnotDone
  have hnone : e.fault = .none := not_not.1 fun hne => hnotFaulted (hfault.1 hne)
  obtain ⟨hphase, -, hcount, huseq, hsameFault, hdigest, hhex⟩ := e.absorbBody_fields block
  have htotal := haccepts.bitcount_toNat
  have hbytes := hbytes hlive
  unfold Engine.BetweenCommands
  rw [hphase, hcount, huseq, hsameFault, hnone, hdigest, hhex, hnoDigest, hnoHex, htotal]
  obtain ⟨hfull, hdata, hnext⟩ | ⟨hlong, hpartial, hdata, hnext⟩ | ⟨-, -, hnext⟩ := haccepts.next_cases
  · have hblocks := hblocks hdata
    simp [hnext]
    omega
  · have hblocks := hblocks hdata
    simp [hnext]
    omega
  · simp [hnext]
    omega

/-- Settles O43: whatever becomes of an engine between commands, it is again between commands. -/
theorem stepKeepsBetweenCommands : Obligations.StepKeepsBetweenCommands := by
  intro s t hs hstep e' he'
  obtain ⟨hrest, -⟩ := hs s.eng (State.mem_engines.2 (.inr (.inl rfl)))
  obtain ⟨e, he, hbecomes⟩ := step_becomes hrest hstep e' he'
  cases hbecomes with
  | same => exact hs e' he
  | created a => exact (hs e he).create a
  | raised c hc => exact (hs e he).raise hc
  | absorbed block h => exact (hs e he).absorbBody h
  | reset => exact e.betweenCommands_hardReset

end Sys2Proof.Machine
end
section
/-! PROOFS. Family 10_state.md: reset (R50), the writers of the chaining registers (R33) and what the host reads
(R48). -/

namespace Sys2Proof.Machine

/-! ## Reset (10_state.md R50) -/

theorem State.resetWith_engines (more : Nat) :
    (State.resetWith more).engines = (List.range (more + 1)).map Engine.reset := by
  rw [List.range_succ_eq_map, List.map_cons, List.map_map]
  rfl

/-- After reset every engine is a reset one. -/
theorem State.forall_resetWith {more : Nat} {P : Engine → Prop} (h : ∀ k, P (Engine.reset k)) :
    ∀ e ∈ (State.resetWith more).engines, P e := by
  intro e he
  rw [State.resetWith_engines] at he
  obtain ⟨k, -, rfl⟩ := List.mem_map.1 he
  exact h k

theorem State.resetWith_indexed (more : Nat) : (State.resetWith more).Indexed := by
  rw [State.Indexed, State.resetWith_engines, List.length_map, List.length_range, List.map_map]
  exact List.map_id _

/-- Settles O48: the invariants of a computation ask nothing of an engine in IDLE. -/
theorem resetSatisfiesTheInvariants : Obligations.ResetSatisfiesTheInvariants := by
  refine ⟨rfl, fun more => ?_⟩
  have hrest : (State.resetWith more).AtRest := State.forall_resetWith fun _ => rfl
  have hdead : ∀ k, (Engine.reset k).phase.live ≠ true := fun _ => Bool.false_ne_true
  refine ⟨?_, ?_, ?_, ⟨hrest, ?_⟩, ⟨hrest, ?_⟩, ?_, State.resetWith_indexed more⟩
  · rw [State.resetWith_engines, List.length_map, List.length_range]
  · exact State.forall_resetWith fun _ => ⟨rfl, rfl, rfl, rfl, rfl, rfl, rfl⟩
  · exact State.forall_resetWith Engine.betweenCommands_reset
  · exact State.forall_resetWith fun k h => absurd h (hdead k)
  · exact State.forall_resetWith fun k h => absurd h (hdead k)
  · exact State.forall_resetWith fun _ => ⟨rfl, rfl⟩

/-! ## Who writes the chaining registers (10_state.md R33) -/

theorem Engine.sha1Micro_h (e : Engine) (i : Fin 80) (fn : Word → Word → Word → Word) (k : Word) :
    (e.sha1Micro i fn k).h = e.h := rfl

/-- An instruction that is not named by `mayWriteRegs` leaves the registers of the addressed engine. -/
theorem exec_keeps_regs {i : Instr} {s t : State} (hi : mayWriteRegs i = false) (h : exec i s = .next t) :
    t.eng.h = s.eng.h := by
  cases i
  case formatMd5 r =>
    simp only [exec, execFormatMd5] at h
    split at h <;> cases h
    rfl
  case formatSha1 r =>
    simp only [exec, execFormatSha1] at h
    split at h <;> cases h
    rfl
  case init | absorb | abort | absorbFull | absorbFinal | absorbSpill | absorbLength | feedfwdMd5 | feedfwdSha1 =>
    cases hi
  case sha1Ch | sha1Par1 | sha1Maj | sha1Par2 =>
    cases h
    exact Engine.sha1Micro_h ..
  all_goals
    cases h
    rfl

/-- Settles O49: the addressed engine keeps its registers, the others are not touched. -/
theorem onlyTheNamedInstructionsWriteRegisters : Obligations.OnlyTheNamedInstructionsWriteRegisters := by
  intro i s t hi h
  have hregs := exec_keeps_regs hi h
  refine ⟨hregs, ?_⟩
  rw [exec_next_frame h]
  simp [State.engines, hregs]

/-! ## What the host reads (10_state.md R48) -/

theorem State.visible_of_rest {s : State} {k : Nat} {e : Engine} (he : s.engines[k]? = some e)
    (hrest : e.useq = none) : s.visible k = some e := by
  simp [State.visible, he, hrest]

theorem Phase.live_iff (p : Phase) :
    p.live = true ↔ p = .awaitingData ∨ p = .awaitingLengthBlock ∨ p = .done := by
  cases p <;> simp [Phase.live]

/-- Settles O42: each read is guarded by the phase in which its field is valid. -/
theorem digestIsReadableExactlyInDone : Obligations.DigestIsReadableExactlyInDone := by
  rintro s k e he ⟨hrest, -, hstores, -⟩
  have hvisible := State.visible_of_rest he hrest
  refine ⟨fun hphase j => ?_, fun hphase j => ?_, fun hphase => ?_, fun hphase => ?_⟩
  · simp [State.readDigest, State.readHex, hvisible, Engine.digestByte, Engine.hexChar, hphase]
  · obtain ⟨hdigest, hhex⟩ := hstores hphase
    simp [State.readDigest, State.readHex, hvisible, Engine.digestByte, Engine.hexChar, hphase, hdigest, hhex,
      Memory.read_ofList]
  · have hdead : e.phase.live = false := by
      obtain hphase | hphase := hphase <;> rw [hphase] <;> rfl
    simp [State.readBitcount, State.readReg, hvisible, Engine.readBitcount, Engine.readReg, hdead]
  · have hlive := e.phase.live_iff.2 hphase
    simp [State.readBitcount, State.readReg, hvisible, Engine.readBitcount, Engine.readReg, hlive, Regs.get]

/-- The fields of the STATUS word as digits. -/
theorem Engine.status_toNat (e : Engine) :
    e.status.toNat = e.phase.code.toNat + 8 * (flagBit e.phase.padPending).toNat +
      16 * (flagBit e.phase.fullyPadded).toNat + 32 * e.fault.code.toNat + 256 * e.statusAlg.bit.toNat := by
  simp only [Engine.status, toNat_append_eq, BitVec.toNat_ofNat]
  omega

theorem flagBit_toNat (b : Bool) : (flagBit b).toNat = if b = true then 1 else 0 := by
  cases b <;> rfl

theorem Phase.padPending_iff (p : Phase) : p.padPending = true ↔ p = .awaitingData := by
  cases p <;> simp [Phase.padPending]

/-- Settles O41: digit by digit. -/
theorem statusWordLayout : Obligations.StatusWordLayout := by
  intro s k e he hrest
  refine ⟨e.status, e.statusAlg.bit.toNat, ?_, ?_, e.statusAlg.bit.isLt, fun hidle hfaulted => ?_⟩
  · rw [State.readStatus, State.visible_of_rest he hrest, Option.map_some]
  · rw [Engine.status_toNat, flagBit_toNat, flagBit_toNat]
    simp only [Phase.padPending_iff, Phase.fullyPadded_iff]
    congr 4
    · cases e.phase <;> rfl
    · cases e.fault <;> rfl
  · have hlive : e.phase.live = true := by
      cases hphase : e.phase with
      | idle => exact absurd hphase hidle
      | faulted => exact absurd hphase hfaulted
      | awaitingData | awaitingLengthBlock | done => rfl
    rw [Engine.statusAlg, if_pos hlive]
    cases e.h.alg <;> rfl

end Sys2Proof.Machine
end
section
/-! PROOFS. Family 10_state.md: the order of the micro-operations (R45, R47). -/

namespace Sys2Proof.Machine

/-! ## Walks of the sequencer -/

/-- Steps take the addressed engine from the first engine to the last and touch nothing else of the machine; before
each of them the coordinate is the next one of the list. -/
inductive Engine.Walks : List (BitVec 11) → Engine → Engine → Prop
  | nil (e : Engine) : Engine.Walks [] e e
  | cons {c : BitVec 11} {cs : List (BitVec 11)} {e e' e'' : Engine} (hat : e.useq = some c)
      (hstep : ∀ s : State, step (s.withEng e) = .next (s.withEng e')) (hrest : Engine.Walks cs e' e'') :
      Engine.Walks (c :: cs) e e''

theorem Engine.Walks.append {cs cs' : List (BitVec 11)} {e e' e'' : Engine} (h : Engine.Walks cs e e')
    (h' : Engine.Walks cs' e' e'') : Engine.Walks (cs ++ cs') e e'' := by
  induction h with
  | nil => exact h'
  | cons hat hstep _ ih => exact .cons hat hstep (ih h')

/-- A walk read off a run: after `k` steps the coordinate is the `k`-th of the list, and then absent. -/
theorem Engine.Walks.run {cs : List (BitVec 11)} {e e' : Engine} (h : Engine.Walks cs e e')
    (hend : e'.useq = none) (s : State) {k : Nat} (hk : k ≤ cs.length) :
    ∃ x : Engine, Sys2Proof.core.run k (s.withEng e) = .next (s.withEng x) ∧ x.useq = cs[k]? := by
  induction h generalizing k with
  | nil e =>
    obtain rfl : k = 0 := Nat.le_zero.1 hk
    exact ⟨e, rfl, hend⟩
  | @cons c cs e _ _ hat hstep _ ih =>
    cases k with
    | zero => exact ⟨e, rfl, hat⟩
    | succ k =>
      obtain ⟨x, hrun, hx⟩ := ih hend (Nat.le_of_succ_le_succ hk)
      exact ⟨x, (run_succ_of_step (hstep s) k).trans hrun, hx⟩

theorem Engine.MicroOp.walks {a : Alg} {st : BitVec 3} {idx : Nat} {e e' : Engine}
    (h : Engine.MicroOp a st idx e e') :
    Engine.Walks [packCoord a st idx] (e.goTo a st idx) ((e'.goTo a st idx).advance (packCoord a st idx)) :=
  .cons rfl (step_of_microOp h) (.nil _)

/-- The coordinates of `count` indices of a stage. -/
def stageCoords (a : Alg) (st : BitVec 3) (first count : Nat) : List (BitVec 11) :=
  (List.range count).map fun r => packCoord a st (first + r)

theorem stageCoords_succ (a : Alg) (st : BitVec 3) (first count : Nat) :
    stageCoords a st first (count + 1) = stageCoords a st first count ++ [packCoord a st (first + count)] := by
  rw [stageCoords, List.range_succ, List.map_append]
  rfl

/-! ## What steers the sequencer -/

/-- All that the sequencer reads of an engine after PAD: the algorithm and the next phase. -/
def Engine.Steered (a : Alg) (next : Phase) (e : Engine) : Prop := e.h.alg = a ∧ e.work.next = next

/-- A micro-operation that leaves what steers the sequencer. -/
def Engine.QuietOp (a : Alg) (st : BitVec 3) (idx : Nat) (e : Engine) : Prop :=
  ∃ e', Engine.MicroOp a st idx e e' ∧ e'.h.alg = e.h.alg ∧ e'.work.next = e.work.next

theorem Engine.QuietOp.walks {a : Alg} {next : Phase} {st : BitVec 3} {idx : Nat} {e : Engine}
    (hop : e.QuietOp a st idx) (h : e.Steered a next) :
    ∃ e', Engine.Steered a next e' ∧ Engine.Walks [packCoord a st idx] (e.goTo a st idx)
      ((e'.goTo a st idx).advance (packCoord a st idx)) := by
  obtain ⟨e', hmicro, halg, hnext⟩ := hop
  obtain ⟨ha, hn⟩ := h
  exact ⟨e', ⟨halg.trans ha, hnext.trans hn⟩, hmicro.walks⟩

theorem Engine.quietOp_load (a : Alg) (j : Fin 16) (e : Engine) : Engine.QuietOp a 2#3 j e := by
  cases a with
  | md5 => exact ⟨_, Engine.microOp_loadMd5 j e, rfl, rfl⟩
  | sha1 => exact ⟨_, Engine.microOp_loadSha1 j e, rfl, rfl⟩

theorem Engine.quietOp_expandSha1 (r : Fin 64) (e : Engine) : Engine.QuietOp .sha1 3#3 (16 + r) e :=
  ⟨_, Engine.microOp_expandSha1 r e, rfl, rfl⟩

theorem Engine.quietOp_round (a : Alg) (i : Fin (Config.nround a)) (e : Engine) :
    Engine.QuietOp a 4#3 i e := by
  cases a with
  | md5 => exact ⟨_, Engine.microOp_md5Round i e, rfl, rfl⟩
  | sha1 => exact ⟨_, Engine.microOp_sha1Round i e, rfl, rfl⟩

theorem Engine.quietOp_feedfwd {e : Engine} {r : Nat} (hr : r < Config.nreg e.h.alg) :
    Engine.QuietOp e.h.alg 5#3 r e := by
  obtain ⟨h, hadd, halg, -⟩ := (e.h.add_eq r (e.work.acc.get r)).1 hr
  exact ⟨_, Engine.microOp_feedfwd hr hadd, halg, rfl⟩

theorem Engine.quietOp_format {e : Engine} {r : Nat} (hr : r < Config.nreg e.h.alg) :
    Engine.QuietOp e.h.alg 6#3 r e := by
  obtain ⟨v, hv⟩ : ∃ v, e.h.get r = some v :=
    ⟨_, List.getElem?_eq_getElem (by rwa [Regs.words_length])⟩
  exact ⟨_, Engine.microOp_format hr hv, rfl, rfl⟩

/-- The walk through a stage of such micro-operations, up to where the sequencer leaves the last coordinate. -/
theorem Engine.Steered.walks_stage {a : Alg} {next : Phase} {st : BitVec 3} {first last count : Nat} {e : Engine}
    (h : e.Steered a next) (hlast : lastIdx a st.toNat = last) (hcount : first + count = last + 1)
    (hfirst : first ≤ last)
    (hquiet : ∀ r < count, ∀ x : Engine, x.Steered a next → Engine.QuietOp a st (first + r) x) :
    ∃ e', Engine.Steered a next e' ∧ Engine.Walks (stageCoords a st first count) (e.goTo a st first)
      ((e'.goTo a st last).advance (packCoord a st last)) := by
  have hinside : ∀ r < count, ∃ x, Engine.Steered a next x ∧
      Engine.Walks (stageCoords a st first r) (e.goTo a st first) (x.goTo a st (first + r)) := by
    intro r
    induction r with
    | zero => exact fun _ => ⟨e, h, .nil _⟩
    | succ r ih =>
      intro hr
      obtain ⟨x, hx, hwalk⟩ := ih (by omega)
      obtain ⟨x', hx', hmove⟩ := (hquiet r (by omega) x hx).walks hx
      rw [Engine.advance_within x' (by omega)] at hmove
      exact ⟨x', hx', stageCoords_succ a st first r ▸ hwalk.append hmove⟩
  obtain ⟨m, rfl⟩ : ∃ m, count = m + 1 := ⟨count - 1, by omega⟩
  obtain rfl : first + m = last := by omega
  obtain ⟨x, hx, hwalk⟩ := hinside m (by omega)
  obtain ⟨e', he', hmove⟩ := (hquiet m (by omega) x hx).walks hx
  exact ⟨e', he', stageCoords_succ a st first m ▸ hwalk.append hmove⟩

/-! ## The stages in their order -/

theorem Engine.buffered_steered (e : Engine) (block : List Byte) :
    (e.buffered block).Steered e.h.alg (e.buffered block).work.next := ⟨rfl, rfl⟩

/-- COUNT, and PAD unless the block is full. -/
theorem Engine.walks_buffered (e : Engine) (block : List Byte) :
    Engine.Walks
      ([packCoord e.h.alg 0#3 0] ++ if block.length = 64 then [] else [packCoord e.h.alg 1#3 0])
      (e.begin block) ((e.buffered block).goTo e.h.alg 2#3 0) := by
  have hcount := (Engine.microOp_count e.h.alg { e with work := { e.work with block := block } }).walks
  rw [Engine.advance_count, ← Engine.begin_eq_goTo] at hcount
  by_cases hfull : block.length = 64
  · simpa [hfull, Engine.afterCount, Engine.buffered, fillBuffer] using hcount
  · have hpad := (Engine.microOp_pad e.h.alg
      { e with
        bitcount := countBits e.bitcount block.length
        work := { e.work with block := block } }).walks
    rw [Engine.advance_pad] at hpad
    simp only [Engine.afterCount, hfull, if_false] at hcount
    simpa [hfull, Engine.buffered, fillBuffer] using hcount.append hpad

/-- The coordinates of the expansion, which MD5 does not have (10_state.md R47(c)). -/
def expandCoords : Alg → List (BitVec 11)
  | .md5 => []
  | .sha1 => stageCoords .sha1 3#3 16 64

theorem Engine.Steered.enterRounds {a : Alg} {next : Phase} {e : Engine} (h : e.Steered a next) :
    ∃ e', Engine.Steered a next e' ∧ e.enterRounds a = e'.goTo a 4#3 0 :=
  ⟨e.withWork { e.work with acc := e.work.acc.seed e.h }, h, rfl⟩

/-- Word load and, for SHA1, the expansion. -/
theorem Engine.Steered.walks_schedule {a : Alg} {next : Phase} {e : Engine} (h : e.Steered a next) :
    ∃ e', Engine.Steered a next e' ∧ Engine.Walks
      (stageCoords a 2#3 0 16 ++ expandCoords a)
      (e.goTo a 2#3 0) (e'.goTo a 4#3 0) := by
  obtain ⟨e1, h1, hload⟩ := h.walks_stage (st := 2#3) (first := 0) (last := 15) (count := 16) rfl rfl
    (Nat.zero_le _) fun r hr x _ => by
      rw [Nat.zero_add]
      exact Engine.quietOp_load a ⟨r, hr⟩ x
  cases a with
  | md5 =>
    obtain ⟨e2, h2, henter⟩ := h1.enterRounds
    rw [Engine.advance_loadMd5, henter] at hload
    exact ⟨e2, h2, hload.append (.nil _)⟩
  | sha1 =>
    rw [Engine.advance_loadSha1] at hload
    obtain ⟨e2, h2, hexpand⟩ := h1.walks_stage (st := 3#3) (first := 16) (last := 79) (count := 64) rfl rfl
      (by decide) fun r hr x _ => Engine.quietOp_expandSha1 ⟨r, hr⟩ x
    obtain ⟨e3, h3, henter⟩ := h2.enterRounds
    rw [Engine.advance_expandSha1, henter] at hexpand
    exact ⟨e3, h3, hload.append hexpand⟩

theorem Engine.Steered.walks_rounds {a : Alg} {next : Phase} {e : Engine} (h : e.Steered a next) :
    ∃ e', Engine.Steered a next e' ∧
      Engine.Walks (stageCoords a 4#3 0 (Config.nround a)) (e.goTo a 4#3 0) (e'.goTo a 5#3 0) := by
  have hpos : 0 < Config.nround a := by cases a <;> decide
  obtain ⟨e', h', hwalk⟩ := h.walks_stage (st := 4#3) (first := 0) (last := Config.nround a - 1)
    (count := Config.nround a) rfl (by omega) (Nat.zero_le _) fun r hr x _ => by
      rw [Nat.zero_add]
      exact Engine.quietOp_round a ⟨r, hr⟩ x
  rw [Engine.advance_round] at hwalk
  exact ⟨e', h', hwalk⟩

/-- The feed-forward, and FORMAT when the next phase is DONE. -/
theorem Engine.Steered.walks_end {a : Alg} {next : Phase} {e : Engine} (h : e.Steered a next) :
    ∃ e', e'.useq = none ∧ Engine.Walks
      (stageCoords a 5#3 0 (Config.nreg a) ++ if next = .done then stageCoords a 6#3 0 (Config.nreg a) else [])
      (e.goTo a 5#3 0) e' := by
  have hpos : 0 < Config.nreg a := by cases a <;> decide
  obtain ⟨e1, ⟨halg, hnext⟩, hfeed⟩ := h.walks_stage (st := 5#3) (first := 0) (last := Config.nreg a - 1)
    (count := Config.nreg a) rfl (by omega) (Nat.zero_le _) fun r hr x hx => by
      obtain ⟨rfl, -⟩ := hx
      rw [Nat.zero_add]
      exact Engine.quietOp_feedfwd hr
  rw [Engine.advance_feedfwd] at hfeed
  by_cases hdone : next = .done
  · rw [Engine.afterFeedfwd_of_done (hnext.trans hdone)] at hfeed
    have h1 : Engine.Steered a next { e1 with phase := e1.work.next } := ⟨halg, hnext⟩
    obtain ⟨e2, -, hformat⟩ := h1.walks_stage (st := 6#3) (first := 0) (last := Config.nreg a - 1)
      (count := Config.nreg a) rfl (by omega) (Nat.zero_le _) fun r hr x hx => by
        obtain ⟨rfl, -⟩ := hx
        rw [Nat.zero_add]
        exact Engine.quietOp_format hr
    rw [Engine.advance_format] at hformat
    rw [if_pos hdone]
    exact ⟨_, rfl, hfeed.append hformat⟩
  · rw [Engine.afterFeedfwd_of_not_done (hnext.trans_ne hdone)] at hfeed
    rw [if_neg hdone]
    exact ⟨_, rfl, hfeed.append (.nil _)⟩

theorem useqOrder_eq_stages (a : Alg) (n : Nat) :
    useqOrder a n =
      ([packCoord a 0#3 0] ++ if n = 64 then [] else [packCoord a 1#3 0]) ++
      ((stageCoords a 2#3 0 16 ++ expandCoords a) ++
      (stageCoords a 4#3 0 (Config.nround a) ++
      (stageCoords a 5#3 0 (Config.nreg a) ++
        if n ≤ 55 then stageCoords a 6#3 0 (Config.nreg a) else []))) := by
  simp only [useqOrder, stageCoords, Nat.zero_add, List.append_assoc]
  cases a <;> rfl

/-- Settles O35: the walk through all stages, FORMAT among them exactly when the block has at most 55 bytes. -/
theorem sequencerFollowsTheOrder : Obligations.SequencerFollowsTheOrder := by
  intro s block k haccepts hk
  have hdone := haccepts.next_eq_done (countBits s.eng.bitcount block.length)
  obtain ⟨e1, h1, hschedule⟩ := (s.eng.buffered_steered block).walks_schedule
  obtain ⟨e2, h2, hrounds⟩ := h1.walks_rounds
  obtain ⟨e3, hrest, hend⟩ := h2.walks_end
  have hwalk := (s.eng.walks_buffered block).append (hschedule.append (hrounds.append hend))
  have hif : ∀ l : List (BitVec 11), (if (s.eng.buffered block).work.next = .done then l else []) =
      if block.length ≤ 55 then l else [] := fun l => if_congr hdone rfl rfl
  rw [hif, ← useqOrder_eq_stages] at hwalk
  obtain ⟨x, hrun, hx⟩ := hwalk.run hrest s hk
  exact ⟨_, hrun, hx⟩

end Sys2Proof.Machine
end
section
/-! PROOFS. Family 20_memory.md: the step of a command transaction (R80), and commands to different instances
(R83). -/

namespace Sys2Proof.Machine

/-! ## The step of a command transaction (30_encoding.md R100) -/

theorem State.select_of_lt {s : State} {k : Nat} (hk : k < s.engines.length) : ∃ t, s.select k = some t :=
  Option.ne_none_iff_exists'.1 fun hnone => absurd (State.select_eq_none.1 hnone) (by omega)

/-- A transaction to an engine that does not exist cannot be formed (60_exceptions.md R299). -/
theorem State.fetch_of_no_instance {s : State} {k : Nat} {word : BitVec 16} {payload : List Byte}
    {rest : List Input} (hrest : s.eng.useq = none) (hpending : s.pending = .command k word payload :: rest)
    (hk : s.engines.length ≤ k) : s.fetch = .stop (.noSuchInstance k) := by
  have hselect : State.select { s with pending := rest } k = none := State.select_eq_none.2 hk
  simp only [State.fetch_of_rest hrest, State.fetchInput, hpending, hselect]

/-- What is fetched of a command to an existing engine: its decoding, on the machine that has taken the input and
addresses that engine. -/
theorem State.fetch_of_command {s : State} {k : Nat} {word : BitVec 16} {payload : List Byte}
    {rest : List Input} (hrest : s.eng.useq = none) (hpending : s.pending = .command k word payload :: rest)
    (hk : k < s.engines.length) :
    ∃ t : State, s.fetch = fetchCommand t word payload ∧ t.pending = rest ∧ t.engines = s.engines ∧
      s.engines[k]? = some t.eng ∧ t.below.length = k := by
  obtain ⟨t, hselect⟩ := State.select_of_lt (s := { s with pending := rest }) hk
  obtain ⟨haddressed, hengines, hinputs, hindex⟩ := State.select_some hselect
  refine ⟨t, ?_, hinputs, hengines, haddressed, hindex⟩
  simp only [State.fetch_of_rest hrest, State.fetchInput, hpending, hselect]

/-- Settles O5. -/
theorem stepRunsTheDecodedCommand : Obligations.StepRunsTheDecodedCommand := by
  intro s k word payload rest i hrest hpending hk hdecode
  obtain ⟨t, hfetch, hinputs, hengines, haddressed, hindex⟩ := State.fetch_of_command hrest hpending hk
  have hcommand : fetchCommand t word payload = .command i t := by simp only [fetchCommand, hdecode]
  have hstep : step s = exec i t := by simp only [step, hfetch, hcommand]
  exact ⟨t, hstep, hinputs, hengines, haddressed, hindex⟩

/-! ## Commands to different instances (20_memory.md R83) -/

theorem State.withEng_engines_eq_modify (t : State) (f : Engine → Engine) :
    (t.withEng (f t.eng)).engines = t.engines.modify t.below.length f := by
  have hlt : t.below.length < t.engines.length := by simp [State.engines]
  rw [List.modify_eq_take_cons_drop hlt]
  simp [State.engines]

/-- A command of the host is a function of the addressed engine alone. -/
theorem FromHost.exec_eq {i : Instr} (hi : FromHost i) :
    ∃ f : Engine → Engine, ∀ t, exec i t = .next (t.withEng (f t.eng)) := by
  cases hi with
  | init a => exact ⟨Engine.create a, fun _ => rfl⟩
  | absorb block => exact ⟨fun e => e.gated block.length (Engine.absorbBody block), fun _ => rfl⟩
  | abort => exact ⟨Engine.abandon, fun _ => rfl⟩

/-- The transaction does `f` to the engine it addresses and touches no other: whichever engine that is, and whatever
the others hold. -/
def ActsAs (word : BitVec 16) (payload : List Byte) (f : Engine → Engine) : Prop :=
  ∀ (s : State) (k : Nat) (rest : List Input), s.eng.useq = none →
    s.pending = .command k word payload :: rest → k < s.engines.length →
    ∃ t, step s = .next t ∧ t.pending = rest ∧ t.engines = s.engines.modify k f

/-- A transaction acts as `f` when the step of what is fetched replaces the addressed engine by its image. -/
theorem ActsAs.of_fetched {word : BitVec 16} {payload : List Byte} {f : Engine → Engine}
    (h : ∀ s t : State, s.fetch = fetchCommand t word payload → step s = .next (t.withEng (f t.eng))) :
    ActsAs word payload f := by
  intro s k rest hrest hpending hk
  obtain ⟨t, hfetch, hinputs, hengines, -, hindex⟩ := State.fetch_of_command hrest hpending hk
  refine ⟨t.withEng (f t.eng), h s t hfetch, hinputs, ?_⟩
  rw [State.withEng_engines_eq_modify, hengines, hindex]

/-- Every transaction acts as some function of the addressed engine, or cannot be formed. -/
theorem actsAs_or_stops (word : BitVec 16) (payload : List Byte) :
    (∃ f, ActsAs word payload f) ∨ ∀ t, fetchCommand t word payload = .stop .malformedTransaction := by
  cases hdecode : decodeCommand word payload with
  | instr i =>
    obtain ⟨f, hf⟩ := (decodeCommand_fromHost hdecode).exec_eq
    refine .inl ⟨f, .of_fetched fun s t hfetch => ?_⟩
    simp only [step, hfetch, fetchCommand, hdecode, hf]
  | reserved =>
    refine .inl ⟨Engine.badCommand, .of_fetched fun s t hfetch => ?_⟩
    simp only [step, hfetch, fetchCommand, hdecode]
  | payloadMismatch | noCoordinate =>
    refine .inr fun t => ?_
    simp only [fetchCommand, hdecode]

/-- A step that takes a transaction has found the engine, and does to it what the transaction does to any engine. -/
theorem step_command_cases {s t : State} {k : Nat} {word : BitVec 16} {payload : List Byte} {rest : List Input}
    (hrest : s.eng.useq = none) (hpending : s.pending = .command k word payload :: rest)
    (hstep : step s = .next t) :
    k < s.engines.length ∧ ∃ f, ActsAs word payload f ∧ t.pending = rest ∧ t.engines = s.engines.modify k f := by
  by_cases hk : k < s.engines.length
  · obtain ⟨f, hf⟩ | hstop := actsAs_or_stops word payload
    · obtain ⟨t', hstep', hinputs, hengines⟩ := hf s k rest hrest hpending hk
      obtain rfl : t' = t := Host.Outcome.next.inj (hstep'.symm.trans hstep)
      exact ⟨hk, f, hf, hinputs, hengines⟩
    · obtain ⟨u, hfetch, -⟩ := State.fetch_of_command hrest hpending hk
      simp [step, hfetch, hstop u] at hstep
  · simp [step, State.fetch_of_no_instance hrest hpending (not_lt.1 hk)] at hstep

theorem State.AtRest.eng {s : State} (h : s.AtRest) : s.eng.useq = none :=
  h s.eng (State.mem_engines.2 (.inr (.inl rfl)))

theorem Engine.Becomes.useq {e e' : Engine} (h : e.Becomes e') (hrest : e.useq = none) : e'.useq = none := by
  cases h with
  | same | created | raised => exact hrest
  | absorbed block =>
    obtain ⟨-, -, -, huseq, -⟩ := e.absorbBody_fields block
    exact huseq
  | reset => rfl

/-- A command runs in one step, so no engine is left inside an ABSORB. -/
theorem step_keeps_atRest {s t : State} (hs : s.AtRest) (hstep : step s = .next t) : t.AtRest := by
  intro e' he'
  obtain ⟨e, he, hbecomes⟩ := step_becomes hs.eng hstep e' he'
  exact hbecomes.useq (hs e he)

/-- A run of two steps is one step after another. -/
theorem run_two_eq_next {s t : State} :
    Sys2Proof.core.run 2 s = .next t ↔ ∃ m, step s = .next m ∧ step m = .next t := by
  constructor
  · intro h
    cases hfirst : step s with
    | next m =>
      rw [run_succ_of_step hfirst] at h
      cases hsecond : step m with
      | next u =>
        rw [run_succ_of_step hsecond] at h
        exact ⟨m, rfl, hsecond.trans h⟩
      | fault r | refused r =>
        have hcore : Sys2Proof.core.step m = _ := hsecond
        simp [Host.Core.run, hcore] at h
    | fault r | refused r =>
      have hcore : Sys2Proof.core.step s = _ := hfirst
      simp [Host.Core.run, hcore] at h
  · rintro ⟨m, hfirst, hsecond⟩
    rw [run_succ_of_step hfirst, run_succ_of_step hsecond]
    rfl

/-- Two transactions in a row change first the one engine, then the other. -/
theorem ActsAs.run_two {s : State} {k l : Nat} {w1 w2 : BitVec 16} {p1 p2 : List Byte} {f g : Engine → Engine}
    (hf : ActsAs w1 p1 f) (hg : ActsAs w2 p2 g) (hs : s.AtRest)
    (hpending : s.pending = [.command k w1 p1, .command l w2 p2])
    (hk : k < s.engines.length) (hl : l < s.engines.length) :
    ∃ t : State, Sys2Proof.core.run 2 s = .next t ∧ t.engines = (s.engines.modify k f).modify l g := by
  obtain ⟨m, hfirst, hinputs, hm⟩ := hf s k _ hs.eng hpending hk
  have hlm : l < m.engines.length := by rwa [hm, List.length_modify]
  obtain ⟨t, hsecond, -, ht⟩ := hg m l _ (step_keeps_atRest hs hfirst).eng hinputs hlm
  exact ⟨t, run_two_eq_next.2 ⟨m, hfirst, hsecond⟩, by rw [ht, hm]⟩

/-- Settles O50: each transaction changes its own place of the list of instances, by a function of what stands
there. -/
theorem instancesCommute : Obligations.InstancesCommute := by
  intro s t k l w1 w2 p1 p2 hs hkl hrun
  obtain ⟨m, hfirst, hsecond⟩ := run_two_eq_next.1 hrun
  have hs' : State.AtRest { s with pending := [.command k w1 p1, .command l w2 p2] } := hs
  obtain ⟨hk, f, hf, hinputs, hm⟩ := step_command_cases hs'.eng rfl hfirst
  obtain ⟨hl, g, hg, -, ht⟩ := step_command_cases (step_keeps_atRest hs' hfirst).eng hinputs hsecond
  rw [hm, List.length_modify] at hl
  obtain ⟨u, hu, hengines⟩ :=
    hg.run_two hf (s := { s with pending := [.command l w2 p2, .command k w1 p1] }) hs rfl hl hk
  refine ⟨u, hu, ?_⟩
  rw [hengines, ht, hm]
  exact List.modify_modify_ne g f s.engines hkl.symm

end Sys2Proof.Machine
end
section
/-! PROOFS. Family 20_memory.md: the canonical form of the digest and hex stores (R70, 10_state.md R43), inside an
ABSORB too. -/

namespace Sys2Proof.Machine

/-- The stores of one engine are in canonical form. -/
def Engine.StoresCanonical (e : Engine) : Prop := e.digest.wf = true ∧ e.hex.wf = true

/-! ## Commands -/

/-- Whoever clears the stores leaves them canonical. -/
theorem Engine.storesCanonical_of_empty {e : Engine} (hdigest : e.digest = []) (hhex : e.hex = []) :
    e.StoresCanonical := by
  simp [Engine.StoresCanonical, hdigest, hhex]

/-- An admitted ABSORB keeps the stores or writes them anew. -/
theorem Engine.StoresCanonical.absorbWith {e : Engine} (h : e.StoresCanonical) (count : BitVec 64) (buf : Block)
    (next : Phase) : (e.absorbWith count buf next).StoresCanonical := by
  obtain ⟨-, -, -, -, -, -, -, -, hdigest, hhex⟩ := e.absorbWith_fields count buf next
  rw [Engine.StoresCanonical, hdigest, hhex]
  split_ifs
  · exact ⟨Memory.ofList_wf _, Memory.ofList_wf _⟩
  · exact h

theorem Engine.StoresCanonical.gated {e : Engine} (h : e.StoresCanonical) (n : Nat) {body : Engine → Engine}
    (hbody : (body e).StoresCanonical) : (e.gated n body).StoresCanonical := by
  obtain ⟨-, heq⟩ | ⟨-, c, -, -, heq⟩ | ⟨-, heq⟩ := e.gated_cases n body <;> rw [heq]
  · exact h
  · exact Engine.storesCanonical_of_empty rfl rfl
  · exact hbody

/-- The word `0x2000` is one of two bodies, by the phase (40_absorb_padding.md R148). -/
theorem Engine.StoresCanonical.shortBody {e : Engine} (h : e.StoresCanonical) (block : List Byte) :
    (e.shortBody block).StoresCanonical := by
  unfold Engine.shortBody
  split_ifs
  · exact h.absorbWith ..
  · exact h.absorbWith ..

/-- Whatever becomes of an engine outside an ABSORB, its stores stay canonical. -/
theorem Engine.Becomes.storesCanonical {e e' : Engine} (hbecomes : e.Becomes e') (h : e.StoresCanonical) :
    e'.StoresCanonical := by
  cases hbecomes with
  | same => exact h
  | created | raised | reset => exact Engine.storesCanonical_of_empty rfl rfl
  | absorbed block => exact h.absorbWith ..

/-! ## Micro-operations -/

/-- FORMAT writes consecutive addresses (44_digest_formatter.md R241, R242). -/
theorem Engine.StoresCanonical.storeDigest {e : Engine} (h : e.StoresCanonical) (r : Nat) (bytes : List Byte) :
    (e.storeDigest r bytes).StoresCanonical := by
  obtain ⟨hdigest, hhex⟩ := h
  exact ⟨Memory.writeList_keeps_wf _ _ _ hdigest, Memory.writeList_keeps_wf _ _ _ hhex⟩

theorem Engine.StoresCanonical.sha1Micro {e : Engine} (h : e.StoresCanonical) (i : Fin 80)
    (fn : Word → Word → Word → Word) (k : Word) : (e.sha1Micro i fn k).StoresCanonical := h

/-- Every instruction keeps the stores of the addressed engine canonical. -/
theorem exec_keeps_storesCanonical {i : Instr} {s t : State} (h : exec i s = .next t)
    (hs : s.eng.StoresCanonical) : t.eng.StoresCanonical := by
  cases i
  case init a => exact ((FromHost.init a).becomes h).storesCanonical hs
  case absorb block => exact ((FromHost.absorb block).becomes h).storesCanonical hs
  case abort => exact (FromHost.abort.becomes h).storesCanonical hs
  case absorbFull block => cases h; exact hs.gated _ (hs.absorbWith ..)
  case absorbFinal block => cases h; exact hs.gated _ (hs.shortBody block)
  case absorbSpill block => cases h; exact hs.gated _ (hs.absorbWith ..)
  case absorbLength => cases h; exact hs.gated _ (hs.shortBody [])
  case formatMd5 r | formatSha1 r =>
    simp only [exec, execFormatMd5, execFormatSha1] at h
    split at h <;> cases h
    exact hs.storeDigest ..
  case feedfwdMd5 r | feedfwdSha1 r =>
    simp only [exec, execFeedfwdMd5, execFeedfwdSha1] at h
    split at h <;> cases h
    exact hs
  case sha1Ch | sha1Par1 | sha1Maj | sha1Par2 =>
    cases h
    exact hs.sha1Micro ..
  all_goals
    cases h
    exact hs

/-! ## The sequencer -/

theorem Engine.afterCount_stores (e : Engine) (a : Alg) :
    (e.afterCount a).digest = e.digest ∧ (e.afterCount a).hex = e.hex := by
  by_cases hfull : e.work.block.length = 64
  · simp only [Engine.afterCount, if_pos hfull, Engine.goTo, and_self]
  · simp only [Engine.afterCount, if_neg hfull, Engine.goTo, and_self]

theorem Engine.afterFeedfwd_stores (e : Engine) (a : Alg) :
    (e.afterFeedfwd a).digest = e.digest ∧ (e.afterFeedfwd a).hex = e.hex := by
  unfold Engine.afterFeedfwd
  dsimp only
  split_ifs <;> exact ⟨rfl, rfl⟩

/-- The sequencer does not touch the stores. -/
theorem Engine.advance_stores (e : Engine) (c : BitVec 11) :
    (e.advance c).digest = e.digest ∧ (e.advance c).hex = e.hex := by
  unfold Engine.advance
  dsimp only
  split_ifs
  · exact ⟨rfl, rfl⟩
  split
  · exact e.afterCount_stores _
  case h_7 => exact e.afterFeedfwd_stores _
  all_goals exact ⟨rfl, rfl⟩

theorem Engine.StoresCanonical.advance {e : Engine} (h : e.StoresCanonical) (c : BitVec 11) :
    (e.advance c).StoresCanonical := by
  obtain ⟨hdigest, hhex⟩ := e.advance_stores c
  rwa [Engine.StoresCanonical, hdigest, hhex]

/-! ## The step -/

/-- Inside an ABSORB a step is one micro-operation and the advance of the sequencer. -/
theorem step_of_coord {s t : State} {c : BitVec 11} (hc : s.eng.useq = some c) (h : step s = .next t) :
    ∃ i u, exec i s = .next u ∧ t = s.withEng (u.eng.advance c) := by
  rw [step, State.fetch, hc] at h
  cases hdecode : decodeCoord c with
  | instr i =>
    simp only [hdecode] at h
    split at h <;> cases h
    next u hexec => exact ⟨i, u, hexec, by rw [exec_next_frame hexec]; rfl⟩
  | reserved | payloadMismatch | noCoordinate =>
    simp only [hdecode] at h
    cases h

/-- Settles O46: outside an ABSORB by what can become of an engine, inside one by the micro-operation. -/
theorem stepKeepsStoresCanonical : Obligations.StepKeepsStoresCanonical := by
  intro s t hs hstep e' he'
  cases hc : s.eng.useq with
  | none =>
    obtain ⟨e, he, hbecomes⟩ := step_becomes hc hstep e' he'
    exact hbecomes.storesCanonical (hs e he)
  | some c =>
    obtain ⟨i, u, hexec, rfl⟩ := step_of_coord hc hstep
    have hnew : u.eng.StoresCanonical :=
      exec_keeps_storesCanonical hexec (hs s.eng (State.mem_engines.2 (.inr (.inl rfl))))
    obtain hmem | rfl | hmem := State.mem_engines.1 he'
    · exact hs e' (State.mem_engines.2 (.inl hmem))
    · exact hnew.advance c
    · exact hs e' (State.mem_engines.2 (.inr (.inr hmem)))

end Sys2Proof.Machine
end
section
/-! PROOFS. Family 30_encoding.md: the encoder and the decoder are inverse to each other (R101 to R104, R108), the
reserved words (R110), what cannot be formed (R100, R112) and the cases of ABSORB (R116). -/

namespace Sys2Proof.Machine

/-! ## The fields of a command word (30_encoding.md R101) -/

theorem cmdOp_toNat (word : BitVec 16) : (cmdOp word).toNat = word.toNat / 4096 := by
  have hlt := word.isLt
  rw [cmdOp, BitVec.extractLsb'_toNat, Nat.shiftRight_eq_div_pow]
  omega

theorem cmdRsv_toNat (word : BitVec 16) : (cmdRsv word).toNat = word.toNat / 128 % 32 := by
  rw [cmdRsv, BitVec.extractLsb'_toNat, Nat.shiftRight_eq_div_pow]

theorem cmdArg_toNat (word : BitVec 16) : (cmdArg word).toNat = word.toNat % 128 := by
  rw [cmdArg, BitVec.extractLsb'_toNat, Nat.shiftRight_zero]

theorem commandWord_toNat (op : BitVec 4) (arg : BitVec 7) :
    (commandWord op arg).toNat = 4096 * op.toNat + arg.toNat := by
  rw [commandWord, toNat_append_eq, toNat_append_eq, BitVec.toNat_ofNat]
  omega

@[simp] theorem cmdOp_commandWord (op : BitVec 4) (arg : BitVec 7) : cmdOp (commandWord op arg) = op := by
  apply BitVec.eq_of_toNat_eq
  rw [cmdOp_toNat, commandWord_toNat]
  omega

@[simp] theorem cmdRsv_commandWord (op : BitVec 4) (arg : BitVec 7) : cmdRsv (commandWord op arg) = 0#5 := by
  apply BitVec.eq_of_toNat_eq
  rw [cmdRsv_toNat, commandWord_toNat, BitVec.toNat_ofNat]
  omega

@[simp] theorem cmdArg_commandWord (op : BitVec 4) (arg : BitVec 7) : cmdArg (commandWord op arg) = arg := by
  apply BitVec.eq_of_toNat_eq
  rw [cmdArg_toNat, commandWord_toNat]
  omega

/-- A word without reserved bits is made of its two other fields. -/
theorem commandWord_eq_of_fields {word : BitVec 16} {op : BitVec 4} {arg : BitVec 7} (hrsv : cmdRsv word = 0#5)
    (hop : (cmdOp word).toNat = op.toNat) (harg : cmdArg word = arg) : commandWord op arg = word := by
  have hzero : word.toNat / 128 % 32 = 0 := by rw [← cmdRsv_toNat, hrsv]; rfl
  rw [cmdOp_toNat] at hop
  apply BitVec.eq_of_toNat_eq
  rw [commandWord_toNat, ← harg, cmdArg_toNat]
  omega

@[simp] theorem Alg.ofBit_bit (a : Alg) : Alg.ofBit a.bit = a := by cases a <;> rfl

@[simp] theorem Alg.bit_ofBit (b : BitVec 1) : (Alg.ofBit b).bit = b := by
  obtain rfl | rfl := BitVec.eq_zero_or_eq_one b <;> rfl

/-! ## The rows of the command table (30_encoding.md R102 to R104) -/

theorem decodeCommand_init (a : Alg) : decodeCommand (commandWord 1#4 (0#6 ++ a.bit)) [] = .instr (.init a) := by
  cases a <;> rfl

theorem decodeCommand_abort : decodeCommand (commandWord 3#4 0#7) [] = .instr .abort := rfl

/-- The bits of `rsv` are looked at first (30_encoding.md R110). -/
theorem decodeCommand_of_rsv {word : BitVec 16} {payload : List Byte} (h : cmdRsv word ≠ 0#5) :
    decodeCommand word payload = .reserved := if_pos h

/-- The word of ABSORB says the length of the block that follows it. -/
theorem decode_absorbCode {block : List Byte} (h : block.length ≤ Config.maxLen) :
    decode (absorbCode block) = .instr (.absorb block) := by
  have hlen : (BitVec.ofNat 7 block.length).toNat = block.length := by
    rw [BitVec.toNat_ofNat]
    exact Nat.mod_eq_of_lt (Nat.lt_succ_of_le h)
  simp [decode, absorbCode, decodeCommand, hlen]

/-- Settles O1: the rows of the command table, then those of the coordinate table. -/
theorem decodeOfEncodeIsTheInstruction : Obligations.DecodeOfEncodeIsTheInstruction := by
  intro i hwf
  cases i
  case init a => exact decodeCommand_init a
  case abort => exact decodeCommand_abort
  case absorb block => exact decode_absorbCode (of_decide_eq_true hwf)
  case absorbFull block => exact decode_absorbCode ((of_decide_eq_true hwf).trans_le (by decide))
  case absorbFinal block => exact decode_absorbCode ((of_decide_eq_true hwf).trans (by decide))
  case absorbSpill block => exact decode_absorbCode ((of_decide_eq_true hwf).2.trans (by decide))
  case absorbLength => exact decode_absorbCode (Nat.zero_le _)
  all_goals exact decodeCoord_of_encode rfl

/-! ## What decodes is an encoding -/

theorem bare_eq_instr {i j : Instr} {payload : List Byte} :
    bare i payload = .instr j ↔ payload = [] ∧ i = j := by
  rw [bare]
  split_ifs with h <;> simp [h]

/-- A coordinate is the packing of its fields (30_encoding.md R108). -/
theorem packCoord_eq_of_fields {c : BitVec 11} {a : Alg} {st : BitVec 3} {idx : Nat} (hst : coordStage c = st.toNat)
    (ha : coordAlg c = a) (hidx : coordIdx c = idx) : packCoord a st idx = c := by
  have hbit : a.bit = c.extractLsb' 10 1 := by rw [← ha, coordAlg, Alg.bit_ofBit]
  have hlt : idx < 128 := hidx ▸ (c.extractLsb' 0 7).isLt
  rw [coordStage, BitVec.extractLsb'_toNat, Nat.shiftRight_eq_div_pow] at hst
  rw [coordIdx, BitVec.extractLsb'_toNat, Nat.shiftRight_zero] at hidx
  apply BitVec.eq_of_toNat_eq
  rw [packCoord_toNat a st hlt, hbit, BitVec.extractLsb'_toNat, Nat.shiftRight_eq_div_pow]
  omega

/-- An `arg` whose upper six bits are 0 is its lowest bit (30_encoding.md R102). -/
theorem zero_append_bit {arg : BitVec 7} (h : arg.extractLsb' 1 6 = 0#6) : 0#6 ++ arg.extractLsb' 0 1 = arg := by
  rw [← h, BitVec.extractLsb'_append_extractLsb'_eq_extractLsb' (by rfl)]
  exact BitVec.extractLsb'_eq_self

/-- Each row of the command table, read backwards. -/
theorem encode_of_decodeCommand {word : BitVec 16} {payload : List Byte} {i : Instr}
    (h : decodeCommand word payload = .instr i) : i.wf = true ∧ encode i = .command word payload := by
  by_cases hrsv : cmdRsv word = 0#5
  case neg =>
    rw [decodeCommand_of_rsv hrsv] at h
    cases h
  rw [decodeCommand, if_neg (not_not.2 hrsv)] at h
  split at h
  next hop =>
    split_ifs at h with harg
    obtain ⟨rfl, rfl⟩ := bare_eq_instr.1 h
    have hword := commandWord_eq_of_fields (op := 1#4) hrsv hop (zero_append_bit (not_not.1 harg)).symm
    exact ⟨rfl, by rw [encode, Alg.bit_ofBit, hword]⟩
  next hop =>
    split_ifs at h with hlen
    cases h
    have harg : cmdArg word = BitVec.ofNat 7 payload.length := by rw [hlen, BitVec.ofNat_toNat, BitVec.setWidth_eq]
    have hword := commandWord_eq_of_fields (op := 2#4) hrsv hop harg
    have hmax : payload.length ≤ Config.maxLen := hlen ▸ Nat.le_of_lt_succ (cmdArg word).isLt
    exact ⟨decide_eq_true hmax, by rw [encode, absorbCode, hword]⟩
  next hop =>
    split_ifs at h with harg
    obtain ⟨rfl, rfl⟩ := bare_eq_instr.1 h
    have hword := commandWord_eq_of_fields (op := 3#4) hrsv hop (not_not.1 harg)
    exact ⟨rfl, by rw [encode, hword]⟩
  next => cases h

/-- Each row of the coordinate table, read backwards. -/
theorem encode_of_decodeCoord {c : BitVec 11} {i : Instr} (h : decodeCoord c = .instr i) :
    i.wf = true ∧ encode i = .coord c := by
  simp only [decodeCoord] at h
  split at h
  case h_12 => cases h
  case h_1 | h_2 =>
    split_ifs at h
    cases h
    exact ⟨rfl, congrArg Code.coord (packCoord_eq_of_fields ‹_› rfl ‹_›)⟩
  all_goals
    split_ifs at h
    all_goals
      cases h
      refine ⟨rfl, congrArg Code.coord (packCoord_eq_of_fields ‹_› ‹_› ?_)⟩
      dsimp only <;> omega

/-- Settles O2. -/
theorem decodableCodeIsTheEncoding : Obligations.DecodableCodeIsTheEncoding := by
  intro c i h
  cases c with
  | command word payload => exact encode_of_decodeCommand h
  | coord c => exact encode_of_decodeCoord h

/-- Settles O3: each word is the encoding of its instruction, as the table's row says. -/
theorem writtenOutWordsDecode : Obligations.WrittenOutWordsDecode :=
  ⟨decodeCommand_init .md5, decodeCommand_init .sha1,
    decode_absorbCode (block := [0x61#8, 0x62#8, 0x63#8]) (by decide), decodeCommand_abort,
    decodeCoord_of_encode rfl, decodeCoord_of_encode rfl, decodeCoord_of_encode rfl, decodeCoord_of_encode rfl,
    decodeCoord_of_encode rfl, decodeCoord_of_encode rfl, decodeCoord_of_encode rfl, decodeCoord_of_encode rfl,
    decodeCoord_of_encode rfl, decodeCoord_of_encode rfl, decodeCoord_of_encode rfl⟩

/-! ## Reserved words (30_encoding.md R110, 60_exceptions.md R286) -/

theorem bare_ne_reserved (i : Instr) (payload : List Byte) : bare i payload ≠ .reserved := by
  rw [bare]
  split_ifs <;> simp

/-- The upper six bits of an `arg`. -/
theorem upperBits_eq_zero {arg : BitVec 7} : arg.extractLsb' 1 6 = 0#6 ↔ arg.toNat / 2 = 0 := by
  rw [← BitVec.toNat_inj, BitVec.extractLsb'_toNat, Nat.shiftRight_eq_div_pow, BitVec.toNat_ofNat]
  omega

/-- The reserved words by their fields, whatever the payload. -/
theorem decodeCommand_eq_reserved {word : BitVec 16} {payload : List Byte} :
    decodeCommand word payload = .reserved ↔
      cmdRsv word ≠ 0#5 ∨ (cmdOp word).toNat = 0 ∨ 4 ≤ (cmdOp word).toNat ∨
        ((cmdOp word).toNat = 1 ∧ (cmdArg word).toNat / 2 ≠ 0) ∨
        ((cmdOp word).toNat = 3 ∧ (cmdArg word).toNat ≠ 0) := by
  by_cases hrsv : cmdRsv word = 0#5
  case neg => exact iff_of_true (decodeCommand_of_rsv hrsv) (.inl hrsv)
  rw [decodeCommand, if_neg (not_not.2 hrsv)]
  split
  next hop =>
    by_cases hupper : (cmdArg word).extractLsb' 1 6 = 0#6
    · simp [hrsv, hop, hupper, upperBits_eq_zero.1 hupper, bare_ne_reserved]
    · simp [hrsv, hop, hupper, mt upperBits_eq_zero.2 hupper]
  next hop => split_ifs <;> simp [hrsv, hop]
  next hop =>
    by_cases harg : cmdArg word = 0#7
    · simp [hrsv, hop, harg, bare_ne_reserved]
    · have hnonzero : (cmdArg word).toNat ≠ 0 := fun h => harg (BitVec.eq_of_toNat_eq h)
      simp [hrsv, hop, harg, hnonzero]
  next hinit habsorb habort =>
    have hother : (cmdOp word).toNat = 0 ∨ 4 ≤ (cmdOp word).toNat := by
      rw [imp_false] at hinit habsorb habort
      omega
    exact iff_of_true rfl (.inr (hother.imp_right .inl))

theorem Engine.badCommand_of_faulted {e : Engine} (h : e.phase = .faulted) : e.badCommand = e := by
  simp only [Engine.badCommand, h]

theorem Engine.badCommand_of_not_faulted {e : Engine} (h : e.phase ≠ .faulted) :
    e.badCommand = e.raise .badCommand := by
  unfold Engine.badCommand
  split
  case h_1 hfaulted => exact absurd hfaulted h
  all_goals rfl

theorem faultEntry_raise (c : FaultCode) (t : State) : FaultEntry c t (t.withEng (t.eng.raise c)) := rfl

/-- Settles O4: the fields of the word as arithmetic, then the step that takes it. -/
theorem reservedWordsRaiseBadCommand : Obligations.ReservedWordsRaiseBadCommand := by
  constructor
  · intro word payload
    rw [decodeCommand_eq_reserved, cmdOp_toNat, cmdArg_toNat, ne_eq, ← BitVec.toNat_inj, cmdRsv_toNat,
      BitVec.toNat_ofNat]
    tauto
  · intro s t k word payload rest hrest hpending hselect hreserved
    have hfetch : s.fetch = .reservedWord t := by
      simp only [State.fetch_of_rest hrest, State.fetchInput, hpending, hselect, fetchCommand, hreserved]
    have hstep : step s = .next (t.withEng t.eng.badCommand) := by simp only [step, hfetch]
    constructor
    · intro hphase
      rw [hstep, Engine.badCommand_of_faulted hphase, State.withEng_self]
    · intro hphase
      rw [Engine.badCommand_of_not_faulted hphase] at hstep
      exact ⟨_, hstep, faultEntry_raise .badCommand t⟩

/-! ## What cannot be formed (30_encoding.md R100, R112, 60_exceptions.md R299) -/

theorem step_of_stop {s : State} {r : Refusal} (h : s.fetch = .stop r) : step s = .refused r := by
  simp only [step, h]

/-- Settles O8: each is fetched as a stop of its own name. -/
theorem stepRefusesWhatCannotBeFormed : Obligations.StepRefusesWhatCannotBeFormed := by
  constructor
  · intro s c hc hdecode
    exact step_of_stop (by simp only [State.fetch, hc, hdecode])
  · intro s k word payload rest hrest hpending
    constructor
    · intro hk
      exact step_of_stop (State.fetch_of_no_instance hrest hpending hk)
    · intro hk hdecode
      obtain ⟨t, hfetch, -⟩ := State.fetch_of_command hrest hpending hk
      exact step_of_stop (by simp only [hfetch, fetchCommand, hdecode])

/-! ## The cases of ABSORB (30_encoding.md R116, 40_absorb_padding.md R145 to R148) -/

/-- A gated command matters only where it is admitted. -/
theorem Engine.gated_congr {e : Engine} {n : Nat} {body body' : Engine → Engine}
    (h : e.Accepts n → body e = body' e) : e.gated n body = e.gated n body' := by
  unfold Engine.gated
  split
  · rfl
  · rfl
  · next hadmitted => exact h ((e.admission_eq_admitted n).1 hadmitted)

/-- The zeros behind the content of a buffer need not be written. -/
theorem blockOfList_append_zeros (l : List Byte) (n : Nat) :
    blockOfList (l ++ List.replicate n 0#8) = blockOfList l := by
  refine Vector.ext fun k hk => ?_
  rw [blockOfList_getElem _ k hk, blockOfList_getElem _ k hk]
  by_cases hin : k < l.length
  · rw [List.getD_append _ _ _ _ hin]
  · rw [List.getD_append_right _ _ _ _ (by omega), List.getD_eq_default l _ (by omega),
      List.getD_eq_getElem?_getD, List.getElem?_getD_replicate_default_eq]

/-- Content that leaves room for the length field: zeros up to it, and the message is complete. -/
theorem padBlock_of_room {a : Alg} {block : List Byte} {padPending : Bool} (count : BitVec 64)
    (h : (padContent block padPending).length ≤ 56) :
    padBlock a block padPending count =
      (blockOfList (padContent block padPending ++
        List.replicate (56 - (padContent block padPending).length) 0#8 ++ lengthField a count), .done) := by
  rw [padBlock]
  exact if_pos (by rw [Config.lenBytes, Config.blockBytes]; omega)

/-- Content that leaves no room for it. -/
theorem padBlock_of_no_room {a : Alg} {block : List Byte} {padPending : Bool} (count : BitVec 64)
    (h : 56 < (padContent block padPending).length) :
    padBlock a block padPending count = (blockOfList (padContent block padPending), .awaitingLengthBlock) := by
  rw [padBlock]
  exact if_neg (by rw [Config.lenBytes, Config.blockBytes]; omega)

/-- An accepted block that is not empty is data. -/
theorem Engine.Accepts.awaitingData {e : Engine} {n : Nat} (h : e.Accepts n) (hn : 0 < n) :
    e.phase = .awaitingData := by
  obtain ⟨⟨hphase, -⟩ | ⟨-, hzero⟩, -⟩ := h
  · exact hphase
  · omega

/-- Data is followed by the byte that ends a message (40_absorb_padding.md R136). -/
theorem padContent_of_awaitingData {e : Engine} (h : e.phase = .awaitingData) (block : List Byte) :
    padContent block e.phase.padPending = block ++ [0x80#8] := by
  rw [h]
  rfl

theorem Engine.fullBody_eq {e : Engine} {block : List Byte} (hphase : e.phase = .awaitingData)
    (hlen : block.length = 64) : e.fullBody block = e.absorbBody block := by
  simp only [Engine.fullBody, Engine.absorbBody, fillBuffer, countBits, hphase, hlen, if_true]

theorem Engine.finalBody_eq {e : Engine} {block : List Byte} (hphase : e.phase = .awaitingData)
    (hlen : block.length ≤ 55) : e.finalBody block = e.absorbBody block := by
  have hcontent := padContent_of_awaitingData hphase block
  have hroom : (padContent block e.phase.padPending).length ≤ 56 := by
    rw [hcontent, List.length_append, List.length_singleton]
    omega
  rw [Engine.absorbBody, fillBuffer, if_neg (by omega), padBlock_of_room _ hroom, hcontent]
  simp [Engine.finalBody]

theorem Engine.spillBody_eq {e : Engine} {block : List Byte} (hphase : e.phase = .awaitingData)
    (hlen : 56 ≤ block.length) (hlen' : block.length ≤ 63) : e.spillBody block = e.absorbBody block := by
  have hcontent := padContent_of_awaitingData hphase block
  have hfull : 56 < (padContent block e.phase.padPending).length := by
    rw [hcontent, List.length_append, List.length_singleton]
    omega
  rw [Engine.absorbBody, fillBuffer, if_neg (by omega), padBlock_of_no_room _ hfull, hcontent,
    ← blockOfList_append_zeros _ (63 - block.length)]
  simp [Engine.spillBody]

theorem Engine.lengthBody_eq {e : Engine} (hphase : e.phase = .awaitingLengthBlock) :
    e.lengthBody = e.absorbBody [] := by
  have hcontent : padContent [] e.phase.padPending = [] := by rw [hphase]; rfl
  have hroom : (padContent [] e.phase.padPending).length ≤ 56 := by rw [hcontent]; simp
  have hcount : countBits e.bitcount ([] : List Byte).length = e.bitcount := BitVec.add_zero _
  rw [Engine.absorbBody, fillBuffer, if_neg (by decide), padBlock_of_room _ hroom, hcontent, hcount]
  rfl

/-- The word `0x2000` means the body of the phase it meets. -/
theorem Engine.Accepts.shortBody_eq {e : Engine} {block : List Byte} (h : e.Accepts block.length)
    (hlen : block.length ≤ 55) : e.shortBody block = e.absorbBody block := by
  obtain ⟨⟨hphase, -⟩ | ⟨hphase, hzero⟩, -⟩ := h
  · rw [Engine.shortBody, if_neg (by simp [hphase]), Engine.finalBody_eq hphase hlen]
  · obtain rfl := List.eq_nil_of_length_eq_zero hzero
    rw [Engine.shortBody, if_pos hphase, Engine.lengthBody_eq hphase]

/-- Two gated commands whose bodies agree where they are admitted are the same. -/
theorem next_gated_congr {s : State} {n : Nat} {body body' : Engine → Engine}
    (h : s.eng.Accepts n → body s.eng = body' s.eng) :
    (.next (s.withEng (s.eng.gated n body)) : Result) = .next (s.withEng (s.eng.gated n body')) := by
  rw [Engine.gated_congr h]

/-- Settles O12: the admission checks are shared, and each body is the body of ABSORB where they let it through. -/
theorem absorbCasesAreAbsorb : Obligations.AbsorbCasesAreAbsorb := by
  intro block s
  refine ⟨fun hlen => ?_, fun hlen => ?_, fun ⟨hlen, hlen'⟩ => ?_, ?_⟩
  · exact next_gated_congr fun h => Engine.fullBody_eq (h.awaitingData (by omega)) hlen
  · exact next_gated_congr fun h => h.shortBody_eq hlen
  · exact next_gated_congr fun h => Engine.spillBody_eq (h.awaitingData (by omega)) hlen hlen'
  · exact next_gated_congr fun h => h.shortBody_eq (block := []) (by decide)

end Sys2Proof.Machine
end
section
/-! PROOFS. Family 40_absorb_padding.md: INIT (R130), the admission of ABSORB (R132), COUNT and PAD (R133 to R139),
the phases (R141) and the four cases of ABSORB (R145 to R148). -/

namespace Sys2Proof.Machine

/-! ## INIT and COUNT (40_absorb_padding.md R130, R133) -/

/-- Settles O10. -/
theorem initCreatesAFreshComputation : Obligations.InitCreatesAFreshComputation := by
  intro a s
  refine ⟨?_, rfl, rfl⟩
  cases a <;> rfl

theorem countBits_eq_ofNat (count : BitVec 64) (n : Nat) :
    countBits count n = BitVec.ofNat 64 (count.toNat + 8 * n) := by
  rw [countBits, BitVec.ofNat_add, BitVec.ofNat_toNat, BitVec.setWidth_eq]

/-- Settles O22. -/
theorem countAddsTheBlockBits : Obligations.CountAddsTheBlockBits := by
  intro a s
  rw [← countBits_eq_ofNat]
  rfl

/-! ## PAD, byte by byte (40_absorb_padding.md R136 to R139) -/

/-- The length field by its bytes (30_encoding.md R107). -/
theorem lengthField_getD (a : Alg) (count : BitVec 64) {j : Nat} (hj : j < 8) :
    (lengthField a count).getD j 0#8 = lengthByte a count j := by
  cases a <;>
    simp [lengthField, nativeBytes, leBytes, beBytes, lengthByte, byteOf, Config.lenBytes, hj]

theorem lengthField_length (a : Alg) (count : BitVec 64) : (lengthField a count).length = 8 :=
  nativeBytes_length a count Config.lenBytes

theorem padContent_length (block : List Byte) (padPending : Bool) :
    (padContent block padPending).length = if padPending then block.length + 1 else block.length := by
  cases padPending <;> simp [padContent]

/-- Behind the block only the byte 0x80 can stand, and zeros follow the content. -/
theorem padContent_getD (block : List Byte) (padPending : Bool) (k : Nat) :
    (padContent block padPending).getD k 0#8 =
      if k < block.length then block.getD k 0#8
      else if k < (padContent block padPending).length then 0x80#8 else 0#8 := by
  rw [padContent_length]
  by_cases hblock : k < block.length
  · rw [if_pos hblock, padContent]
    split_ifs
    · exact List.getD_append _ _ _ _ hblock
    · rfl
  rw [if_neg hblock, padContent]
  split_ifs with hpending hcontent
  · obtain rfl : k = block.length := by omega
    rw [List.getD_append_right _ _ _ _ le_rfl, Nat.sub_self]
    rfl
  · exact List.getD_eq_default _ _ (by rw [List.length_append, List.length_singleton]; omega)
  · exact List.getD_eq_default _ _ (not_lt.1 hblock)

/-- The last buffer of a message: its content, zeros, and the length field at offset 56. -/
theorem blockOfList_lengthField_getElem {content : List Byte} (a : Alg) (count : BitVec 64)
    (hroom : content.length ≤ 56) {k : Nat} (hk : k < 64) :
    (blockOfList (content ++ List.replicate (56 - content.length) 0#8 ++ lengthField a count))[k] =
      if 56 ≤ k then lengthByte a count (k - 56) else content.getD k 0#8 := by
  have hzeros : (content ++ List.replicate (56 - content.length) 0#8).length = 56 := by
    rw [List.length_append, List.length_replicate]
    omega
  rw [blockOfList_getElem _ k hk]
  split_ifs with hfield
  · rw [List.getD_append_right _ _ _ _ (by omega), hzeros, lengthField_getD a count (by omega)]
  · rw [List.getD_append _ _ _ _ (by omega), ← blockOfList_getElem _ k hk, blockOfList_append_zeros,
      blockOfList_getElem _ k hk]

theorem le_padContent_length (block : List Byte) (padPending : Bool) :
    block.length ≤ (padContent block padPending).length := by
  rw [padContent_length]
  split_ifs <;> omega

/-- Every byte that PAD writes. -/
theorem padBlock_getElem (a : Alg) (block : List Byte) (padPending : Bool) (count : BitVec 64) {k : Nat}
    (hk : k < 64) :
    (padBlock a block padPending count).1[k] =
      if k < block.length then block.getD k 0#8
      else if k < (padContent block padPending).length then 0x80#8
      else if (padContent block padPending).length ≤ 56 ∧ 56 ≤ k then lengthByte a count (k - 56)
      else 0#8 := by
  have hblock := le_padContent_length block padPending
  have hbytes := padContent_getD block padPending k
  by_cases hroom : (padContent block padPending).length ≤ 56
  · rw [padBlock_of_room count hroom, blockOfList_lengthField_getElem a count hroom hk]
    by_cases hfield : 56 ≤ k
    · rw [if_pos hfield, if_neg (by omega), if_neg (by omega), if_pos ⟨hroom, hfield⟩]
    · simp only [hfield, and_false, if_false, hbytes]
  · rw [padBlock_of_no_room count (not_le.1 hroom), blockOfList_getElem _ k hk, hbytes]
    simp only [hroom, false_and, if_false]

/-- The next phase as PAD decides it. -/
theorem padBlock_next_eq (a : Alg) (block : List Byte) (padPending : Bool) (count : BitVec 64) :
    (padBlock a block padPending count).2 =
      if (padContent block padPending).length ≤ 56 then .done else .awaitingLengthBlock := by
  split_ifs with hroom
  · rw [padBlock_of_room count hroom]
  · rw [padBlock_of_no_room count (not_le.1 hroom)]

/-- Settles O23. -/
theorem padBuildsTheTerminalBuffer : Obligations.PadBuildsTheTerminalBuffer := by
  intro a s hshort n c
  have hcontent : (padContent s.eng.work.block s.eng.phase.padPending).length = c := by
    simp only [padContent_length, Phase.padPending_iff, n, c]
  have hroom : 8 ≤ 64 - c ↔ c ≤ 56 := by omega
  refine ⟨_, _, rfl, ?_, fun k hk => ?_⟩
  · simp only [padBlock_next_eq, hcontent, hroom]
  · simp only [padBlock_getElem _ _ _ _ hk, hcontent, hroom, n]

/-! ## Admission (40_absorb_padding.md R132) -/

theorem exec_absorb_of_accepts {s : State} {block : List Byte} (h : s.eng.Accepts block.length) :
    exec (.absorb block) s = .next (s.withEng (s.eng.absorbBody block)) := by
  simp only [exec, execAbsorb, Engine.gated, (s.eng.admission_eq_admitted block.length).2 h]

/-- A check that applies is fault entry (60_exceptions.md R290). -/
theorem exec_absorb_of_raises {s : State} {block : List Byte} {c : FaultCode}
    (h : s.eng.admission block.length = .raises c) :
    ∃ t, exec (.absorb block) s = .next t ∧ FaultEntry c s t := by
  refine ⟨s.withEng (s.eng.raise c), ?_, faultEntry_raise c s⟩
  simp only [exec, execAbsorb, Engine.gated, h]

theorem exec_absorb_of_faulted {s : State} {block : List Byte} (h : s.eng.phase = .faulted) :
    exec (.absorb block) s = .next s := by
  simp [exec, execAbsorb, Engine.gated, Engine.admission, h]

/-- The empty block adds nothing to the counter, so where the length is owed no check can apply to it. -/
theorem Engine.accepts_empty {e : Engine} (h : e.phase = .awaitingLengthBlock) :
    e.Accepts ([] : List Byte).length :=
  ⟨.inr ⟨h, rfl⟩, Nat.le_pred_of_lt e.bitcount.isLt⟩

/-- An admitted ABSORB compresses one buffer (60_exceptions.md R312). -/
theorem Engine.absorbBody_trace (e : Engine) (block : List Byte) :
    (e.absorbBody block).trace = e.trace ++ [(e.buffered block).work.buf] := by
  obtain ⟨-, -, -, htrace, -⟩ := e.absorbWith_fields
    (e.buffered block).bitcount (e.buffered block).work.buf (e.buffered block).work.next
  exact htrace

/-- The phase that follows an accepted ABSORB depends on the length of its block alone (40_absorb_padding.md
R141). -/
theorem Engine.Accepts.next_eq {e : Engine} {block : List Byte} (h : e.Accepts block.length) :
    (e.buffered block).work.next =
      if block.length = 64 then .awaitingData
      else if block.length ≤ 55 then .done else .awaitingLengthBlock := by
  obtain ⟨hfull, -, hnext⟩ | ⟨hlong, hpartial, -, hnext⟩ | ⟨hshort, -, hnext⟩ := h.next_cases
  · rw [hnext, if_pos hfull]
  · rw [hnext, if_neg (by omega), if_neg (by omega)]
  · rw [hnext, if_neg (by omega), if_pos hshort]

theorem Engine.Accepts.absorbBody_phase {e : Engine} {block : List Byte} (h : e.Accepts block.length) :
    (e.absorbBody block).phase =
      if block.length = 64 then .awaitingData
      else if block.length ≤ 55 then .done else .awaitingLengthBlock := by
  obtain ⟨hphase, -⟩ := e.absorbBody_fields block
  rw [hphase, h.next_eq]

theorem Engine.absorbBody_fault (e : Engine) (block : List Byte) : (e.absorbBody block).fault = e.fault := by
  obtain ⟨-, -, -, -, hfault, -⟩ := e.absorbBody_fields block
  exact hfault

/-- Settles O11: the checks stand in this order in the model's admission. -/
theorem absorbAdmissionOrder : Obligations.AbsorbAdmissionOrder := by
  intro block s
  split_ifs with hfaulted hidle hlong hdone howing hcount
  · exact exec_absorb_of_faulted hfaulted
  · exact exec_absorb_of_raises (by rw [Engine.admission, if_neg hfaulted, if_pos hidle])
  · exact exec_absorb_of_raises (by rw [Engine.admission, if_neg hfaulted, if_neg hidle, if_pos hlong])
  · exact exec_absorb_of_raises
      (by rw [Engine.admission, if_neg hfaulted, if_neg hidle, if_neg hlong, if_pos hdone])
  · exact exec_absorb_of_raises
      (by rw [Engine.admission, if_neg hfaulted, if_neg hidle, if_neg hlong, if_neg hdone, if_pos howing])
  · exact exec_absorb_of_raises (by rw [Engine.admission, if_neg hfaulted, if_neg hidle, if_neg hlong,
      if_neg hdone, if_neg howing, if_pos hcount])
  · have haccepts : s.eng.Accepts block.length := (s.eng.admission_eq_admitted block.length).1
      (by rw [Engine.admission, if_neg hfaulted, if_neg hidle, if_neg hlong, if_neg hdone, if_neg howing,
        if_neg hcount])
    refine ⟨_, exec_absorb_of_accepts haccepts, s.eng.absorbBody_fault block, ?_, ?_⟩
    · rw [State.withEng_eng, haccepts.absorbBody_phase]
      split_ifs <;> decide
    · rw [State.withEng_eng, Engine.absorbBody_trace, List.length_append, List.length_singleton]

/-! ## The phases (40_absorb_padding.md R141) -/

/-- The phase and the fault code after an accepted ABSORB. -/
theorem Engine.Accepts.exec_phase_fault {s : State} {block : List Byte} (h : s.eng.Accepts block.length) :
    ∃ t, exec (.absorb block) s = .next t ∧ (t.eng.phase, t.eng.fault) =
      ((if block.length = 64 then .awaitingData
        else if block.length ≤ 55 then .done else .awaitingLengthBlock), s.eng.fault) :=
  ⟨_, exec_absorb_of_accepts h, Prod.ext h.absorbBody_phase (s.eng.absorbBody_fault block)⟩

/-- The phase and the fault code after a check that applies. -/
theorem exec_phase_fault_of_raises {s : State} {block : List Byte} {c : FaultCode}
    (h : s.eng.admission block.length = .raises c) :
    ∃ t, exec (.absorb block) s = .next t ∧ (t.eng.phase, t.eng.fault) = (.faulted, c) := by
  obtain ⟨t, hexec, hentry⟩ := exec_absorb_of_raises h
  exact ⟨t, hexec, by rw [hentry]⟩

theorem Engine.abandon_phase_fault (e : Engine) :
    (e.abandon.phase, e.abandon.fault) =
      match e.phase with
      | .idle => (.idle, e.fault)
      | .faulted => (.faulted, e.fault)
      | .awaitingData | .awaitingLengthBlock | .done => (.faulted, .upstreamAbort) := by
  unfold Engine.abandon
  cases h : e.phase <;> simp [h]

/-- Settles O18: the table's rows are the phases before the command, its columns the lengths of the block. -/
theorem phaseTableHolds : Obligations.PhaseTableHolds := by
  intro s a block
  refine ⟨⟨_, rfl, rfl⟩, ⟨_, rfl, s.eng.abandon_phase_fault⟩, ?_⟩
  cases hphase : s.eng.phase with
  | idle => exact exec_phase_fault_of_raises (by simp [Engine.admission, hphase])
  | faulted => exact ⟨s, exec_absorb_of_faulted hphase, by rw [hphase]⟩
  | done =>
    dsimp only
    split_ifs with hlong
    · exact exec_phase_fault_of_raises (by simp [Engine.admission, hphase, hlong])
    · exact exec_phase_fault_of_raises (by simp [Engine.admission, hphase, hlong])
  | awaitingLengthBlock =>
    dsimp only
    split_ifs with hlong hnonempty
    · exact exec_phase_fault_of_raises (by simp [Engine.admission, hphase, hlong])
    · exact exec_phase_fault_of_raises (by simp [Engine.admission, hphase, hlong, hnonempty])
    · obtain rfl := List.eq_nil_of_length_eq_zero (Nat.eq_zero_of_not_pos hnonempty)
      exact (Engine.accepts_empty hphase).exec_phase_fault
  | awaitingData =>
    by_cases hlong : 64 < block.length
    · simp only [hlong, if_true]
      exact exec_phase_fault_of_raises (by simp [Engine.admission, hphase, hlong])
    by_cases hcount : 2 ^ 64 - 1 < s.eng.bitcount.toNat + 8 * block.length
    · simp only [hlong, hcount, if_true, if_false]
      refine exec_phase_fault_of_raises ?_
      simp [Engine.admission, hphase, hlong]
      omega
    · have haccepts : s.eng.Accepts block.length := ⟨.inl ⟨hphase, not_lt.1 hlong⟩, not_lt.1 hcount⟩
      obtain ⟨t, hexec, hend⟩ := haccepts.exec_phase_fault
      refine ⟨t, hexec, ?_⟩
      simp only [hend, hlong, hcount, if_false]
      split_ifs <;> rfl

/-! ## The four cases of ABSORB (40_absorb_padding.md R145 to R148) -/

/-- An accepted ABSORB compresses its buffer and touches nothing else but the working state. -/
theorem absorbed_absorbBody (s : State) (block : List Byte) :
    let b := s.eng.buffered block
    let t := s.withEng (s.eng.absorbBody block)
    Absorbed s t b.bitcount b.work.buf b.work.next
      (if b.work.next = .done then Memory.ofList (serialize (compress s.eng.h b.work.buf)) else s.eng.digest)
      (if b.work.next = .done then Memory.ofList (hexstr (serialize (compress s.eng.h b.work.buf)))
        else s.eng.hex) := by
  intro b t
  have hbody : s.eng.absorbBody block =
      (if b.work.next = .done then (s.eng.compressed block b.work).format
        else s.eng.compressed block b.work).retire b.work.buf := Engine.absorbBody_eq rfl rfl
  simp only [t, hbody]
  split_ifs <;> rfl

theorem Engine.buffered_of_full {e : Engine} {block : List Byte} (h : block.length = 64) :
    (e.buffered block).work.buf = blockOfList block := by
  simp only [Engine.buffered, fillBuffer, if_pos h]

/-- The byte of a buffer that PAD fills, by the phase and the length of its block. -/
theorem Engine.buffered_getElem {e : Engine} {block : List Byte} (h : block.length < 64) {k : Nat} (hk : k < 64) :
    let c := if e.phase = .awaitingData then block.length + 1 else block.length
    (e.buffered block).work.buf[k] =
      if k < block.length then block.getD k 0#8
      else if k < c then 0x80#8
      else if c ≤ 56 ∧ 56 ≤ k then lengthByte e.h.alg (e.buffered block).bitcount (k - 56)
      else 0#8 := by
  have hcontent := padContent_length block e.phase.padPending
  simp only [Phase.padPending_iff] at hcontent
  simp only [Engine.buffered, fillBuffer, if_neg h.ne, padBlock_getElem _ _ _ _ hk, hcontent]

/-- A block of more than 55 bytes leaves the stores as they are. -/
theorem Engine.Accepts.absorbed_of_long {s : State} {block : List Byte} (h : s.eng.Accepts block.length)
    (hlen : 56 ≤ block.length) :
    Absorbed s (s.withEng (s.eng.absorbBody block)) (s.eng.buffered block).bitcount
      (s.eng.buffered block).work.buf (if block.length = 64 then .awaitingData else .awaitingLengthBlock)
      s.eng.digest s.eng.hex := by
  have hnext : (s.eng.buffered block).work.next =
      if block.length = 64 then .awaitingData else .awaitingLengthBlock := by
    rw [h.next_eq, if_neg (by omega : ¬ block.length ≤ 55)]
  have hnotDone : (s.eng.buffered block).work.next ≠ .done := by
    rw [hnext]
    split_ifs <;> decide
  have habsorbed := absorbed_absorbBody s block
  simp only [hnotDone, if_false] at habsorbed
  rwa [hnext] at habsorbed

/-- A block of at most 55 bytes ends the message, and the digest is stored (40_absorb_padding.md R142). -/
theorem Engine.Accepts.absorbed_of_short {s : State} {block : List Byte} (h : s.eng.Accepts block.length)
    (hlen : block.length ≤ 55) :
    let buf := (s.eng.buffered block).work.buf
    Absorbed s (s.withEng (s.eng.absorbBody block)) (s.eng.buffered block).bitcount buf .done
      (Memory.ofList (serialize (compress s.eng.h buf)))
      (Memory.ofList (hexstr (serialize (compress s.eng.h buf)))) := by
  have hnext : (s.eng.buffered block).work.next = .done := by
    rw [h.next_eq, if_neg (by omega), if_pos hlen]
  have habsorbed := absorbed_absorbBody s block
  simpa only [hnext, if_true] using habsorbed

/-- Settles O13. -/
theorem fullBlockIsCompressedAsItIs : Obligations.FullBlockIsCompressedAsItIs := by
  intro block s hphase hlen hroom
  have haccepts : s.eng.Accepts block.length := ⟨.inl ⟨hphase, hlen.le⟩, by omega⟩
  have hexec := exec_absorb_of_accepts haccepts
  obtain ⟨hfull, -, -, -⟩ := absorbCasesAreAbsorb block s
  have hcount := haccepts.bitcount_toNat
  have habsorbed := haccepts.absorbed_of_long (by omega)
  rw [if_pos hlen] at habsorbed
  refine ⟨_, _, _, (hfull hlen).trans hexec, hexec, by omega, fun k hk => ?_, habsorbed⟩
  rw [Engine.buffered_of_full hlen, blockOfList_getElem _ k hk]

/-- Settles O14. -/
theorem finalBlockEndsTheMessage : Obligations.FinalBlockEndsTheMessage := by
  intro block s hphase hlen hroom
  have haccepts : s.eng.Accepts block.length := ⟨.inl ⟨hphase, by omega⟩, hroom⟩
  have hexec := exec_absorb_of_accepts haccepts
  obtain ⟨-, hfinal, -, -⟩ := absorbCasesAreAbsorb block s
  refine ⟨_, _, _, (hfinal hlen).trans hexec, hexec, haccepts.bitcount_toNat, fun k hk => ?_,
    haccepts.absorbed_of_short hlen⟩
  rw [Engine.buffered_getElem (by omega) hk, if_pos hphase]
  grind

/-- Settles O15. -/
theorem spillBlockLeavesTheLengthOwing : Obligations.SpillBlockLeavesTheLengthOwing := by
  intro block s hphase hlen hlen' hroom
  have haccepts : s.eng.Accepts block.length := ⟨.inl ⟨hphase, by omega⟩, hroom⟩
  have hexec := exec_absorb_of_accepts haccepts
  obtain ⟨-, -, hspill, -⟩ := absorbCasesAreAbsorb block s
  have habsorbed := haccepts.absorbed_of_long hlen
  rw [if_neg (by omega)] at habsorbed
  refine ⟨_, _, _, (hspill ⟨hlen, hlen'⟩).trans hexec, hexec, haccepts.bitcount_toNat, fun k hk => ?_,
    habsorbed⟩
  rw [Engine.buffered_getElem (by omega) hk, if_pos hphase]
  grind

/-- Settles O16. -/
theorem lengthBlockEndsTheMessage : Obligations.LengthBlockEndsTheMessage := by
  intro s hphase
  have haccepts := Engine.accepts_empty hphase
  have hnotData : s.eng.phase ≠ .awaitingData := by simp [hphase]
  have hexec := exec_absorb_of_accepts haccepts
  obtain ⟨-, -, -, hlength⟩ := absorbCasesAreAbsorb [] s
  have hcount : (s.eng.buffered []).bitcount = s.eng.bitcount := BitVec.add_zero _
  have habsorbed := haccepts.absorbed_of_short (Nat.zero_le _)
  rw [hcount] at habsorbed
  refine ⟨_, _, hlength.trans hexec, hexec, fun k hk => ?_, habsorbed⟩
  rw [Engine.buffered_getElem (by decide) hk, hcount, if_neg hnotData]
  grind

end Sys2Proof.Machine
end
section
/-! PROOFS. Family 40_absorb_padding.md: the message behind the ghost trace (R133 to R140, R143), the Slice Driver
(45_driver_protocol.md R261, R267) and the number of compressions (R144). -/

namespace Sys2Proof.Machine

/-! ## A byte sequence cut into blocks (40_absorb_padding.md R143) -/

theorem blocksOf_length (bytes : List Byte) : (blocksOf bytes).length = bytes.length / 64 := by
  rw [blocksOf, List.length_map, List.length_range]

/-- Behind whole blocks one more is one more block. -/
theorem blocksOf_append_block {bytes block : List Byte} (hbytes : bytes.length % 64 = 0)
    (hblock : block.length = 64) : blocksOf (bytes ++ block) = blocksOf bytes ++ [blockOfList block] := by
  have hcount : (bytes ++ block).length / 64 = bytes.length / 64 + 1 := by
    rw [List.length_append]
    omega
  rw [blocksOf, hcount, List.range_succ, List.map_append, blocksOf]
  refine congrArg₂ (· ++ ·) ?_ ?_
  · refine List.map_congr_left fun k hk => ?_
    have hin : 64 * k + 64 ≤ bytes.length := by
      have := List.mem_range.1 hk
      omega
    rw [List.drop_append_of_le_length (by omega),
      List.take_append_of_le_length (by rw [List.length_drop]; omega)]
  · have hend : 64 * (bytes.length / 64) = bytes.length := by omega
    rw [List.map_singleton, hend, List.drop_left, List.take_of_length_le hblock.le]

/-! ## The padding of a message (40_absorb_padding.md R143) -/

/-- A last block of at most 55 bytes carries the byte 0x80, the zeros and the length field. -/
theorem paddedMessage_of_final (a : Alg) {m block : List Byte} (hm : m.length % 64 = 0)
    (hblock : block.length ≤ 55) :
    paddedMessage a (m ++ block) =
      m ++ (block ++ 0x80#8 :: List.replicate (55 - block.length) 0#8 ++
        lengthField a (BitVec.ofNat 64 (8 * (m ++ block).length))) := by
  have hzeros : (64 - ((m ++ block).length + 9) % 64) % 64 = 55 - block.length := by
    rw [List.length_append]
    omega
  rw [paddedMessage, hzeros]
  simp only [List.append_assoc, List.cons_append]

/-- After a last block of 56 bytes or more the length field stands in a block of its own. -/
theorem paddedMessage_of_spill (a : Alg) {m : List Byte} (hm : 56 ≤ m.length % 64) :
    paddedMessage a m =
      (m ++ 0x80#8 :: List.replicate (63 - m.length % 64) 0#8) ++
        (List.replicate 56 0#8 ++ lengthField a (BitVec.ofNat 64 (8 * m.length))) := by
  have hzeros : (64 - (m.length + 9) % 64) % 64 = (63 - m.length % 64) + 56 := by omega
  rw [paddedMessage, hzeros, List.replicate_add]
  simp only [List.append_assoc, List.cons_append]

theorem paddedMessage_length (a : Alg) (m : List Byte) :
    (paddedMessage a m).length = m.length + 9 + (64 - (m.length + 9) % 64) % 64 := by
  simp only [paddedMessage, List.length_append, List.length_cons, List.length_replicate, lengthField_length]
  omega

/-! ## The message absorbed (40_absorb_padding.md R133 to R140) -/

section HasAbsorbed

variable {e : Engine} {m block : List Byte}

theorem Engine.hasAbsorbed_of_awaitingData (h : e.phase = .awaitingData) :
    e.HasAbsorbed m ↔ 8 * m.length = e.bitcount.toNat ∧ m.length % 64 = 0 ∧ e.trace = blocksOf m := by
  rw [Engine.HasAbsorbed, h]

theorem Engine.hasAbsorbed_of_awaitingLengthBlock (h : e.phase = .awaitingLengthBlock) :
    e.HasAbsorbed m ↔ 8 * m.length = e.bitcount.toNat ∧ 56 ≤ m.length % 64 ∧
      e.trace = blocksOf (m ++ 0x80#8 :: List.replicate (63 - m.length % 64) 0#8) := by
  rw [Engine.HasAbsorbed, h]

theorem Engine.hasAbsorbed_of_done (h : e.phase = .done) :
    e.HasAbsorbed m ↔ 8 * m.length = e.bitcount.toNat ∧ e.trace = blocksOf (paddedMessage e.h.alg m) := by
  rw [Engine.HasAbsorbed, h]

theorem Engine.HasAbsorbed.bits (h : e.HasAbsorbed m) : 8 * m.length = e.bitcount.toNat := by
  obtain ⟨hbits, -⟩ := h
  exact hbits

theorem Engine.create_hasAbsorbed (e : Engine) (a : Alg) : (e.create a).HasAbsorbed [] :=
  (Engine.hasAbsorbed_of_awaitingData rfl).2 ⟨rfl, rfl, rfl⟩

/-- The counter counts the block with the message before it. -/
theorem Engine.HasAbsorbed.absorbBody_bits (h : e.HasAbsorbed m) (haccepts : e.Accepts block.length) :
    8 * (m ++ block).length = (e.absorbBody block).bitcount.toNat := by
  obtain ⟨-, -, hcount, -⟩ := e.absorbBody_fields block
  rw [hcount, haccepts.bitcount_toNat, List.length_append, ← h.bits, Nat.mul_add]

/-- The counter that the length field is made of (40_absorb_padding.md R138). -/
theorem Engine.HasAbsorbed.countBits_eq (h : e.HasAbsorbed m) :
    countBits e.bitcount block.length = BitVec.ofNat 64 (8 * (m ++ block).length) := by
  rw [countBits_eq_ofNat, ← h.bits, List.length_append, Nat.mul_add]

/-! An admitted ABSORB has absorbed `m` when its counter counts `m` and its buffer is the next of those that the
padding rules make of `m`: one lemma for each phase that it can lead to. -/

theorem Engine.absorbWith_awaitingData {count : BitVec 64} {buf : Block}
    (hbits : 8 * m.length = (e.absorbWith count buf .awaitingData).bitcount.toNat) (hm : m.length % 64 = 0)
    (htrace : e.trace ++ [buf] = blocksOf m) : (e.absorbWith count buf .awaitingData).HasAbsorbed m := by
  obtain ⟨hphase, -, -, htrace', -⟩ := e.absorbWith_fields count buf .awaitingData
  exact (Engine.hasAbsorbed_of_awaitingData hphase).2 ⟨hbits, hm, htrace'.trans htrace⟩

theorem Engine.absorbWith_awaitingLengthBlock {count : BitVec 64} {buf : Block}
    (hbits : 8 * m.length = (e.absorbWith count buf .awaitingLengthBlock).bitcount.toNat)
    (hm : 56 ≤ m.length % 64)
    (htrace : e.trace ++ [buf] = blocksOf (m ++ 0x80#8 :: List.replicate (63 - m.length % 64) 0#8)) :
    (e.absorbWith count buf .awaitingLengthBlock).HasAbsorbed m := by
  obtain ⟨hphase, -, -, htrace', -⟩ := e.absorbWith_fields count buf .awaitingLengthBlock
  exact (Engine.hasAbsorbed_of_awaitingLengthBlock hphase).2 ⟨hbits, hm, htrace'.trans htrace⟩

theorem Engine.absorbWith_done {count : BitVec 64} {buf : Block}
    (hbits : 8 * m.length = (e.absorbWith count buf .done).bitcount.toNat)
    (htrace : e.trace ++ [buf] = blocksOf (paddedMessage e.h.alg m)) :
    (e.absorbWith count buf .done).HasAbsorbed m := by
  obtain ⟨hphase, hh, -, htrace', -⟩ := e.absorbWith_fields count buf .done
  refine (Engine.hasAbsorbed_of_done hphase).2 ⟨hbits, ?_⟩
  rw [htrace', hh, compress_alg, htrace]

/-- ABSORB.FULL continues the message by one block. -/
theorem Engine.HasAbsorbed.full (h : e.HasAbsorbed m) (haccepts : e.Accepts block.length)
    (hphase : e.phase = .awaitingData) (hlen : block.length = 64) :
    (e.absorbBody block).HasAbsorbed (m ++ block) := by
  have hbits := h.absorbBody_bits haccepts
  obtain ⟨-, hm, htrace⟩ := (Engine.hasAbsorbed_of_awaitingData hphase).1 h
  rw [← Engine.fullBody_eq hphase hlen, Engine.fullBody, hphase] at hbits ⊢
  refine Engine.absorbWith_awaitingData hbits ?_ ?_
  · rw [List.length_append]
    omega
  · rw [htrace, blocksOf_append_block hm hlen]

/-- ABSORB.SPILL ends the message and its block, and leaves the length owing. -/
theorem Engine.HasAbsorbed.spill (h : e.HasAbsorbed m) (haccepts : e.Accepts block.length)
    (hphase : e.phase = .awaitingData) (hlen : 56 ≤ block.length) (hlen' : block.length ≤ 63) :
    (e.absorbBody block).HasAbsorbed (m ++ block) := by
  have hbits := h.absorbBody_bits haccepts
  obtain ⟨-, hm, htrace⟩ := (Engine.hasAbsorbed_of_awaitingData hphase).1 h
  have hrest : (m ++ block).length % 64 = block.length := by
    rw [List.length_append]
    omega
  have hbuf : (block ++ 0x80#8 :: List.replicate (63 - block.length) 0#8).length = 64 := by
    rw [List.length_append, List.length_cons, List.length_replicate]
    omega
  rw [← Engine.spillBody_eq hphase hlen hlen'] at hbits ⊢
  refine Engine.absorbWith_awaitingLengthBlock hbits (by omega) ?_
  rw [htrace, hrest, List.append_assoc, blocksOf_append_block hm hbuf]

/-- ABSORB.FINAL ends the message, its padding in the same block. -/
theorem Engine.HasAbsorbed.final (h : e.HasAbsorbed m) (haccepts : e.Accepts block.length)
    (hphase : e.phase = .awaitingData) (hlen : block.length ≤ 55) :
    (e.absorbBody block).HasAbsorbed (m ++ block) := by
  have hbits := h.absorbBody_bits haccepts
  obtain ⟨-, hm, htrace⟩ := (Engine.hasAbsorbed_of_awaitingData hphase).1 h
  have hbuf : (block ++ 0x80#8 :: List.replicate (55 - block.length) 0#8 ++
      lengthField e.h.alg (countBits e.bitcount block.length)).length = 64 := by
    simp only [List.length_append, List.length_cons, List.length_replicate, lengthField_length]
    omega
  rw [← Engine.finalBody_eq hphase hlen] at hbits ⊢
  refine Engine.absorbWith_done hbits ?_
  rw [htrace, paddedMessage_of_final _ hm hlen, ← h.countBits_eq, blocksOf_append_block hm hbuf]

/-- ABSORB.LENGTH pays the length owing; the message stays. -/
theorem Engine.HasAbsorbed.lengthBlock (h : e.HasAbsorbed m) (haccepts : e.Accepts ([] : List Byte).length)
    (hphase : e.phase = .awaitingLengthBlock) : (e.absorbBody []).HasAbsorbed (m ++ []) := by
  have hbits := h.absorbBody_bits haccepts
  rw [List.append_nil] at hbits ⊢
  obtain ⟨hcount, hm, htrace⟩ := (Engine.hasAbsorbed_of_awaitingLengthBlock hphase).1 h
  have hfield : BitVec.ofNat 64 (8 * m.length) = e.bitcount := by
    rw [hcount, BitVec.ofNat_toNat, BitVec.setWidth_eq]
  have hspilled : (m ++ 0x80#8 :: List.replicate (63 - m.length % 64) 0#8).length % 64 = 0 := by
    rw [List.length_append, List.length_cons, List.length_replicate]
    omega
  have hbuf : (List.replicate 56 0#8 ++ lengthField e.h.alg e.bitcount).length = 64 := by
    rw [List.length_append, List.length_replicate, lengthField_length]
  rw [← Engine.lengthBody_eq hphase] at hbits ⊢
  refine Engine.absorbWith_done hbits ?_
  rw [htrace, paddedMessage_of_spill _ hm, hfield, blocksOf_append_block hspilled hbuf]

/-- An accepted ABSORB appends its block to the message, in each of the four cases. -/
theorem Engine.HasAbsorbed.absorbBody (h : e.HasAbsorbed m) (haccepts : e.Accepts block.length) :
    (e.absorbBody block).HasAbsorbed (m ++ block) := by
  obtain ⟨hfull, hdata, -⟩ | ⟨hlong, hpartial, hdata, -⟩ | ⟨hshort, hdata | howing, -⟩ := haccepts.next_cases
  · exact h.full haccepts hdata hfull
  · exact h.spill haccepts hdata hlong hpartial
  · exact h.final haccepts hdata hshort
  · have hempty : block.length = 0 :=
      Nat.eq_zero_of_not_pos fun hpos => by simp [haccepts.awaitingData hpos] at howing
    obtain rfl := List.eq_nil_of_length_eq_zero hempty
    exact h.lengthBlock haccepts howing

end HasAbsorbed

/-- Settles O51. -/
theorem absorbExtendsTheMessage : Obligations.AbsorbExtendsTheMessage :=
  fun _ _ _ h haccepts => ⟨_, exec_absorb_of_accepts haccepts, h.absorbBody haccepts⟩

/-- Settles O45: whatever becomes of an engine between commands, the computation it has is that of a message. -/
theorem stepKeepsTracesOfMessages : Obligations.StepKeepsTracesOfMessages := by
  rintro s t ⟨hrest, hmessages⟩ hstep
  refine ⟨step_keeps_atRest hrest hstep, fun e' he' hlive => ?_⟩
  obtain ⟨e, he, hbecomes⟩ := step_becomes hrest.eng hstep e' he'
  cases hbecomes with
  | same => exact hmessages e' he hlive
  | created a => exact ⟨[], Engine.create_hasAbsorbed _ a⟩
  | raised | reset => cases hlive
  | absorbed block haccepts =>
    obtain ⟨hbefore, -⟩ := haccepts.phase_running
    obtain ⟨m, hm⟩ := hmessages e he hbefore
    exact ⟨m ++ block, hm.absorbBody haccepts⟩

/-! ## A computation from INIT to DONE (40_absorb_padding.md R142, R143) -/

/-- A compression joins the registers and the ghost trace alike. -/
theorem Engine.Chained.absorbBody {e : Engine} {block : List Byte} (h : e.Chained)
    (haccepts : e.Accepts block.length) : (e.absorbBody block).Chained := by
  intro _
  obtain ⟨hlive, -⟩ := haccepts.phase_running
  obtain ⟨-, hh, -⟩ := e.absorbBody_fields block
  rw [Engine.absorbBody_trace, List.foldl_append, hh, compress_alg, ← h hlive]
  rfl

/-- A computation under `a` that has absorbed `m` without a fault: its registers are those of the buffers compressed,
and in DONE their digest is stored. -/
structure Engine.Digesting (e : Engine) (a : Alg) (m : List Byte) : Prop where
  alg : e.h.alg = a
  fault : e.fault = .none
  absorbed : e.HasAbsorbed m
  chained : e.Chained
  stored : e.phase = .done →
    e.digest = Memory.ofList (serialize e.h) ∧ e.hex = Memory.ofList (hexstr (serialize e.h))

theorem Engine.create_digesting (e : Engine) (a : Alg) : (e.create a).Digesting a [] where
  alg := Regs.initial_alg a
  fault := rfl
  absorbed := e.create_hasAbsorbed a
  chained := fun _ => congrArg Regs.initial (Regs.initial_alg a).symm
  stored := fun h => by simp at h

theorem Engine.Digesting.absorbBody {e : Engine} {a : Alg} {m block : List Byte} (h : e.Digesting a m)
    (haccepts : e.Accepts block.length) : (e.absorbBody block).Digesting a (m ++ block) := by
  obtain ⟨hphase, hh, -, -, -, hdigest, hhex⟩ := e.absorbBody_fields block
  refine ⟨?_, ?_, h.absorbed.absorbBody haccepts, h.chained.absorbBody haccepts, fun hdone => ?_⟩
  · rw [hh, compress_alg, h.alg]
  · rw [Engine.absorbBody_fault, h.fault]
  · rw [hphase] at hdone
    exact ⟨hdigest.trans (if_pos hdone), hhex.trans (if_pos hdone)⟩

/-- In DONE everything about the computation is fixed by the message. -/
theorem Engine.Digesting.done {e : Engine} {a : Alg} {m : List Byte} (h : e.Digesting a m)
    (hdone : e.phase = .done) :
    e.trace = blocksOf (paddedMessage a m) ∧ e.h = messageRegs a m := by
  obtain ⟨-, htrace⟩ := (Engine.hasAbsorbed_of_done hdone).1 h.absorbed
  have hregs := h.chained (by simp [hdone, Phase.live])
  rw [h.alg] at htrace hregs
  rw [htrace] at hregs
  exact ⟨htrace, hregs⟩

/-! ## The Slice Driver (45_driver_protocol.md R261) -/

@[simp] theorem andThen_next (s : State) (next : State → Result) : andThen (.next s) next = next s := rfl

theorem andThen_assoc (r : Result) (f g : State → Result) :
    andThen (andThen r f) g = andThen r fun s => andThen (f s) g := by
  cases r <;> rfl

theorem absorbAll_append (blocks blocks' : List (List Byte)) (s : State) :
    absorbAll (blocks ++ blocks') s = andThen (absorbAll blocks s) (absorbAll blocks') := by
  induction blocks generalizing s with
  | nil => rfl
  | cons block rest ih =>
    rw [List.cons_append, absorbAll, absorbAll, andThen_assoc]
    exact congrArg (andThen _) (funext ih)

theorem absorbAll_singleton (block : List Byte) (s : State) : absorbAll [block] s = exec (.absorb block) s := by
  rw [absorbAll]
  cases exec (.absorb block) s <;> rfl

section SliceDriver

variable {s : State} {a : Alg} {m : List Byte}

/-- In AWAITING_DATA a block is accepted while the counter can hold the message with it. -/
theorem Engine.HasAbsorbed.accepts {e : Engine} {block : List Byte} (h : e.HasAbsorbed m)
    (hphase : e.phase = .awaitingData) (hlen : block.length ≤ 64)
    (hroom : 8 * (m ++ block).length ≤ 2 ^ 64 - 1) : e.Accepts block.length := by
  refine ⟨.inl ⟨hphase, hlen⟩, ?_⟩
  rwa [← h.bits, ← Nat.mul_add, ← List.length_append]

/-- Full blocks continue the message. -/
theorem absorbAll_full {blocks : List (List Byte)} (h : s.eng.Digesting a m) (hphase : s.eng.phase = .awaitingData)
    (hfull : ∀ block ∈ blocks, block.length = 64) (hroom : 8 * (m ++ blocks.flatten).length ≤ 2 ^ 64 - 1) :
    ∃ e : Engine, absorbAll blocks s = .next (s.withEng e) ∧ e.phase = .awaitingData ∧
      e.Digesting a (m ++ blocks.flatten) := by
  induction blocks generalizing s m with
  | nil => exact ⟨s.eng, rfl, hphase, by simpa using h⟩
  | cons block rest ih =>
    obtain ⟨hlen, hrest⟩ := List.forall_mem_cons.1 hfull
    rw [List.flatten_cons, ← List.append_assoc] at hroom ⊢
    have haccepts := h.absorbed.accepts hphase hlen.le (by rw [List.length_append] at hroom; omega)
    have hphase' := haccepts.absorbBody_phase
    rw [if_pos hlen] at hphase'
    rw [absorbAll, exec_absorb_of_accepts haccepts, andThen_next]
    exact ih (s := s.withEng _) (h.absorbBody haccepts) hphase' hrest hroom

/-- A short block and FINISH complete the message, with a length block where one is owed (45_driver_protocol.md
R262). -/
theorem absorb_finish {block : List Byte} (h : s.eng.Digesting a m) (hphase : s.eng.phase = .awaitingData)
    (hlen : block.length < 64) (hroom : 8 * (m ++ block).length ≤ 2 ^ 64 - 1) :
    ∃ e : Engine, andThen (exec (.absorb block) s) finish = .next (s.withEng e) ∧ e.phase = .done ∧
      e.Digesting a (m ++ block) := by
  have haccepts := h.absorbed.accepts hphase hlen.le hroom
  have hphase' := haccepts.absorbBody_phase
  have hnext := h.absorbBody haccepts
  rw [if_neg hlen.ne] at hphase'
  rw [exec_absorb_of_accepts haccepts, andThen_next]
  by_cases hshort : block.length ≤ 55
  · rw [if_pos hshort] at hphase'
    exact ⟨_, if_pos hphase', hphase', hnext⟩
  · rw [if_neg hshort] at hphase'
    have howing := Engine.accepts_empty hphase'
    refine ⟨_, ?_, howing.absorbBody_phase, by simpa using hnext.absorbBody howing⟩
    rw [finish, if_neg (by simp [hphase'])]
    exact exec_absorb_of_accepts (s := s.withEng _) howing

theorem flatten_chunks (m : List Byte) (n : Nat) :
    ((List.range n).map fun k => (m.drop (64 * k)).take 64).flatten = m.take (64 * n) := by
  induction n with
  | zero => rfl
  | succ n ih =>
    rw [List.range_succ, List.map_append, List.flatten_append, ih, Nat.mul_succ, List.take_add]
    simp

/-- From any state the Slice Driver brings the addressed engine to DONE with the message absorbed. -/
theorem sliceDriver_digests (s : State) (a : Alg) (hroom : 8 * m.length ≤ 2 ^ 64 - 1) :
    ∃ e : Engine, sliceDriver a m s = .next (s.withEng e) ∧ e.phase = .done ∧ e.Digesting a m := by
  have hinit : exec (.init a) s = .next (s.withEng (s.eng.create a)) := rfl
  have hchunks : ∀ block ∈ (List.range (m.length / 64)).map fun k => (m.drop (64 * k)).take 64,
      block.length = 64 := by
    intro block hblock
    obtain ⟨k, hk, rfl⟩ := List.mem_map.1 hblock
    have := List.mem_range.1 hk
    rw [List.length_take, List.length_drop]
    omega
  have htake : 8 * ([] ++ m.take (64 * (m.length / 64))).length ≤ 2 ^ 64 - 1 := by
    rw [List.nil_append, List.length_take]
    omega
  rw [← flatten_chunks] at htake
  obtain ⟨e, hfull, hphase, he⟩ := absorbAll_full (s := s.withEng (s.eng.create a))
    (s.eng.create_digesting a) rfl hchunks htake
  rw [flatten_chunks, List.nil_append] at he
  have hrest : (m.drop (64 * (m.length / 64))).length < 64 := by
    rw [List.length_drop]
    omega
  obtain ⟨e', hlast, hdone, he'⟩ := absorb_finish (s := (s.withEng (s.eng.create a)).withEng e) he hphase hrest
    (by rwa [List.take_append_drop])
  rw [List.take_append_drop] at he'
  refine ⟨e', ?_, hdone, he'⟩
  rw [sliceDriver, hinit, andThen_next, sliceBlocks, absorbAll_append, hfull, andThen_next, absorbAll_singleton]
  exact hlast

end SliceDriver

/-- Settles O52. -/
theorem sliceDriverYieldsTheDigest : Obligations.SliceDriverYieldsTheDigest := by
  intro a m s hroom
  obtain ⟨e, hexec, hdone, he⟩ := sliceDriver_digests s a hroom
  obtain ⟨htrace, hregs⟩ := he.done hdone
  obtain ⟨hdigest, hhex⟩ := he.stored hdone
  rw [hregs] at hdigest hhex
  exact ⟨_, hexec, hdone, he.fault, hregs, he.absorbed.bits.symm, hdigest, hhex, htrace, rfl, rfl, rfl⟩

/-- Settles O53: the trace is the padded message cut into blocks, whose number is its length divided by 64. -/
theorem numberOfCompressions : Obligations.NumberOfCompressions := by
  intro a m count
  have hlen := paddedMessage_length a m
  have hcount : (blocksOf (paddedMessage a m)).length = count := by
    simp only [blocksOf_length, hlen, count]
    split_ifs <;> omega
  refine ⟨fun hroom s => ?_, by omega, hcount⟩
  obtain ⟨e, hexec, hdone, he⟩ := sliceDriver_digests s a hroom
  obtain ⟨htrace, -⟩ := he.done hdone
  exact ⟨_, hexec, (congrArg List.length htrace).trans hcount⟩

end Sys2Proof.Machine
end
section
/-! PROOFS. Family 41_block_load_schedule.md: the word loads (R161, R162), the expansion (R164) and the place of the
length field in the schedule (R166). -/

namespace Sys2Proof.Machine

/-! ## Byte order (00_scope.md R13) -/

theorem be32_eq_le32 (b0 b1 b2 b3 : Byte) : be32 b0 b1 b2 b3 = le32 b3 b2 b1 b0 := rfl

theorem le32_toNat (b0 b1 b2 b3 : Byte) :
    (le32 b0 b1 b2 b3).toNat =
      b0.toNat + 2 ^ 8 * b1.toNat + 2 ^ 16 * b2.toNat + 2 ^ 24 * b3.toNat := by
  have happ : (le32 b0 b1 b2 b3).toNat =
      ((b3.toNat * 2 ^ 8 + b2.toNat) * 2 ^ 8 + b1.toNat) * 2 ^ 8 + b0.toNat := by
    rw [← toNat_append_eq, ← toNat_append_eq, ← toNat_append_eq, le32]
  omega

theorem be32_toNat (b0 b1 b2 b3 : Byte) :
    (be32 b0 b1 b2 b3).toNat =
      2 ^ 24 * b0.toNat + 2 ^ 16 * b1.toNat + 2 ^ 8 * b2.toNat + b3.toNat := by
  rw [be32_eq_le32, le32_toNat]
  omega

/-- Four successive bytes of a value, the lowest first, are its 32 bits from there on. -/
theorem le32_eq_extractLsb' {m n : Nat} {x : BitVec m} {b0 b1 b2 b3 : Byte} (h0 : b0 = x.extractLsb' n 8)
    (h1 : b1 = x.extractLsb' (n + 8) 8) (h2 : b2 = x.extractLsb' (n + 16) 8)
    (h3 : b3 = x.extractLsb' (n + 24) 8) : le32 b0 b1 b2 b3 = x.extractLsb' n 32 := by
  subst h0 h1 h2 h3
  apply BitVec.eq_of_toNat_eq
  simp only [le32_toNat, BitVec.extractLsb'_toNat, Nat.shiftRight_add]
  omega

/-! ## The word loads (41_block_load_schedule.md R161, R162) -/

/-- Settles O24: the loaded word is `le32` of the four bytes, whose value is `le32_toNat`. -/
theorem loadMd5IsLittleEndian : Obligations.LoadMd5IsLittleEndian := fun j s =>
  ⟨decodeCoord_of_encode rfl, md5Word s.eng.work.buf j, rfl, le32_toNat ..⟩

/-- Settles O25: the loaded word is `be32` of the four bytes, whose value is `be32_toNat`. -/
theorem loadSha1IsBigEndian : Obligations.LoadSha1IsBigEndian := fun j s =>
  ⟨decodeCoord_of_encode rfl, sha1Word s.eng.work.buf j, rfl, be32_toNat ..⟩

/-! ## The length field in the schedule (41_block_load_schedule.md R166) -/

/-- A count of less than `8 * 2^29 = 2^32` bits fits in the low word. -/
theorem highWord_eq_zero {count : BitVec 64} (h : count.toNat < 8 * 2 ^ 29) :
    count.extractLsb' 32 32 = 0#32 := by
  apply BitVec.eq_of_toNat_eq
  rw [BitVec.extractLsb'_toNat, Nat.shiftRight_eq_div_pow, Nat.div_eq_of_lt (by omega)]
  rfl

/-- Settles O38: bytes 56 to 59 make W[14] and bytes 60 to 63 make W[15]; the SHA1 field holds the bytes of the
count from the highest down. -/
theorem lengthLandsInTheLastTwoWords : Obligations.LengthLandsInTheLastTwoWords := by
  intro buf count
  refine ⟨fun hmd5 => ⟨?low, ?high⟩, fun hsha1 => ⟨?high', ?low'⟩, highWord_eq_zero⟩
  case low =>
    exact le32_eq_extractLsb' (hmd5 0 (by decide)) (hmd5 1 (by decide))
      (hmd5 2 (by decide)) (hmd5 3 (by decide))
  case high =>
    exact le32_eq_extractLsb' (hmd5 4 (by decide)) (hmd5 5 (by decide))
      (hmd5 6 (by decide)) (hmd5 7 (by decide))
  case high' =>
    exact le32_eq_extractLsb' (hsha1 3 (by decide)) (hsha1 2 (by decide))
      (hsha1 1 (by decide)) (hsha1 0 (by decide))
  case low' =>
    exact le32_eq_extractLsb' (hsha1 7 (by decide)) (hsha1 6 (by decide))
      (hsha1 5 (by decide)) (hsha1 4 (by decide))

/-! ## The expansion (41_block_load_schedule.md R164) -/

theorem wordAt_eq_getElem (w : Vector Word 80) {t : Nat} (ht : t < 80) : wordAt w t = w[t] := by
  rw [wordAt, List.getD_eq_getElem _ _ (by rwa [Vector.length_toList]), Vector.getElem_toList]

/-- The recurrence by the words' places, with the rotation of 00_scope.md R16 written out. -/
theorem expandWord_eq (w : Vector Word 80) (r : Fin 64) {x : Word}
    (hx : x = wordAt w (r.val + 13) ^^^ wordAt w (r.val + 8) ^^^ wordAt w (r.val + 2) ^^^ wordAt w r.val) :
    expandWord w r = (x <<< 1 ||| x >>> 31) := by
  simp (disch := omega) only [wordAt_eq_getElem] at hx
  rw [expandWord, ← hx]
  exact rotl32_eq_shifts x (by decide)

/-- Settles O26: step `r` of the expansion writes word `t = 16 + r`. -/
theorem expandWritesTheRecurrence : Obligations.ExpandWritesTheRecurrence := by
  intro t hfirst hlast s
  obtain ⟨r, rfl⟩ := Nat.exists_eq_add_of_le hfirst
  obtain ⟨hr, h3, h8, h14⟩ : 16 + r - 16 = r ∧ 16 + r - 3 = r + 13 ∧ 16 + r - 8 = r + 8 ∧ 16 + r - 14 = r + 2 := by
    omega
  simp only [hr, h3, h8, h14]
  refine ⟨decodeCoord_of_encode rfl, ?_⟩
  rw [← expandWord_eq s.eng.work.w ⟨r, by omega⟩ rfl]
  rfl

end Sys2Proof.Machine
end
section
/-! PROOFS. Family 42_md5_compression.md: the chain of compressions behind the registers (R193), the rounds (R183 to
R190), the schedule index (R185) and the feed-forward (R192). -/

namespace Sys2Proof.Machine

/-! ## The chain of compressions (42_md5_compression.md R193, 43_sha1_compression.md R220) -/

/-- Whatever becomes of an engine outside an ABSORB, a computation it has is the chain of its trace. -/
theorem Engine.Becomes.chained {e e' : Engine} (hbecomes : e.Becomes e') (h : e.Chained) : e'.Chained := by
  cases hbecomes with
  | same => exact h
  | created a => exact (e.create_digesting a).chained
  | raised | reset => exact fun hlive => by cases hlive
  | absorbed block haccepts => exact h.absorbBody haccepts

/-- Settles O44. -/
theorem stepKeepsTheChain : Obligations.StepKeepsTheChain := by
  rintro s t ⟨hrest, hchained⟩ hstep
  refine ⟨step_keeps_atRest hrest hstep, fun e' he' => ?_⟩
  obtain ⟨e, he, hbecomes⟩ := step_becomes hrest.eng hstep e' he'
  exact hbecomes.chained (hchained e he)

/-! ## The feed-forward (42_md5_compression.md R192) -/

/-- Registers A to D exist for either algorithm (10_state.md R31, R32). -/
theorem four_le_nreg (a : Alg) : 4 ≤ Config.nreg a := by
  cases a <;> decide

/-- Adding its accumulator to a register that exists, read register by register. -/
theorem Regs.add_get (h : Regs) (x : Acc) {r : Nat} (hr : r < Config.nreg h.alg) :
    ∃ h', h.add r (x.get r) = some h' ∧ h'.alg = h.alg ∧
      ∀ q : Nat, h'.get q =
        (h.get q).map fun v => if q = r then BitVec.ofNat 32 (v.toNat + (x.get q).toNat) else v := by
  obtain ⟨h', hadd, halg, hwords⟩ := (h.add_eq r (x.get r)).1 hr
  refine ⟨h', hadd, halg, fun q => ?_⟩
  rw [Regs.get, hwords, List.getElem?_modify]
  by_cases hq : q = r
  · subst hq
    simp only [if_true, BitVec.add_def]
    rfl
  · simp only [if_neg hq, if_neg (Ne.symm hq)]
    rfl

/-- Settles O30. -/
theorem feedForwardMd5AddsOneRegister : Obligations.FeedForwardMd5AddsOneRegister := by
  intro r s
  obtain ⟨h, hadd, halg, hget⟩ := s.eng.h.add_get s.eng.work.acc (r.isLt.trans_le (four_le_nreg _))
  refine ⟨decodeCoord_of_encode rfl, h, ?_, halg, hget⟩
  simp only [exec, execFeedfwdMd5, hadd]
  rfl

/-! ## The rounds (42_md5_compression.md R182 to R190) -/

/-- The datapath of 42_md5_compression.md R190 written out, with the schedule word by its place. -/
theorem next_md5Micro (s : State) (i : Nat) (fn : Word → Word → Word → Word) (g : Fin 16) :
    let x := s.eng.work.acc
    let f := fn x.b x.c x.d
    (.next (s.withEng (s.eng.md5Micro i fn g)) : Result) =
      .next { s with eng := { s.eng with work := { s.eng.work with
        f := f
        acc := { a := x.d
                 b := x.b + rotl32 (f + x.a + md5Const i + wordAt s.eng.work.w g) (md5Shift i)
                 c := x.b
                 d := x.c
                 e := x.e } } } } := by
  rw [wordAt_eq_getElem _ (by omega)]
  rfl

/-- Settles O28: the tables are evaluated; a micro-operation is its round of the datapath, and the first 16 rounds
read the words in their order. -/
theorem md5RoundMicroOperations : Obligations.Md5RoundMicroOperations := by
  refine ⟨by decide, by decide, fun s r => ⟨decodeCoord_of_encode rfl, decodeCoord_of_encode rfl,
    decodeCoord_of_encode rfl, decodeCoord_of_encode rfl, ?f, ?g, ?h, ?i⟩⟩
  case f =>
    have hindex : Fin.ofNat 16 r.val = r := Fin.ext (Nat.mod_eq_of_lt r.isLt)
    rw [exec, execMd5F, hindex]
    exact next_md5Micro s r md5FnF r
  case g => exact next_md5Micro s (16 + r) md5FnG _
  case h => exact next_md5Micro s (32 + r) md5FnH _
  case i => exact next_md5Micro s (48 + r) md5FnI _

/-! ## The schedule index (42_md5_compression.md R185) -/

/-- Each group of 16 rounds uses every schedule word, in some order. -/
theorem md5Index_group_perm : ∀ g < 4,
    ((List.range 16).map fun k => (md5Index (16 * g + k)).val).Perm (List.range 16) := by
  decide

/-- Settles O40: the list is evaluated; a permutation of 0 to 15 has each of them once. -/
theorem scheduleIndexIsTheListedPermutation : Obligations.ScheduleIndexIsTheListedPermutation := by
  refine ⟨by decide, fun g hg v hv => ?_⟩
  rw [(md5Index_group_perm g hg).count_eq]
  exact List.count_eq_one_of_mem List.nodup_range (List.mem_range.2 hv)

end Sys2Proof.Machine
end

section
/-! PROOFS. Family 43_sha1_compression.md: the rounds (R212 to R217) and the feed-forward (R219). -/

namespace Sys2Proof.Machine

/-! ## The feed-forward (43_sha1_compression.md R219) -/

/-- Settles O31: the premise says that the register exists, and `Regs.add_get` says what adding to it does. -/
theorem feedForwardSha1AddsOneRegister : Obligations.FeedForwardSha1AddsOneRegister := by
  intro r s hexists
  have hr : r.val < Config.nreg s.eng.h.alg := by
    obtain hfour | hsha1 := hexists
    · exact hfour.trans_le (four_le_nreg _)
    · rw [hsha1]
      exact r.isLt
  obtain ⟨h, hadd, halg, hget⟩ := s.eng.h.add_get s.eng.work.acc hr
  refine ⟨decodeCoord_of_encode rfl, h, ?_, halg, hget⟩
  simp only [exec, execFeedfwdSha1, hadd]
  rfl

/-! ## The rounds (43_sha1_compression.md R212 to R217) -/

/-- The datapath of 43_sha1_compression.md R217 written out, with the schedule word by its place. -/
theorem next_sha1Micro (s : State) (i : Fin 80) (fn : Word → Word → Word → Word) (k : Word) :
    let x := s.eng.work.acc
    let f := fn x.b x.c x.d
    let temp := rotl32 x.a 5 + f + x.e + k + wordAt s.eng.work.w i
    (.next (s.withEng (s.eng.sha1Micro i fn k)) : Result) =
      .next { s with eng := { s.eng with work := { s.eng.work with
        f := f
        temp := temp
        acc := { a := temp, b := x.a, c := rotl32 x.b 30, d := x.c, e := x.d } } } } := by
  rw [wordAt_eq_getElem _ i.isLt]
  rfl

/-- Settles O29: each micro-operation is its round of the datapath, with the function and the constant of its
range. -/
theorem sha1RoundMicroOperations : Obligations.Sha1RoundMicroOperations := by
  refine fun s r => ⟨decodeCoord_of_encode rfl, decodeCoord_of_encode rfl, decodeCoord_of_encode rfl,
    decodeCoord_of_encode rfl, ?ch, ?par1, ?maj, ?par2⟩
  case ch => exact next_sha1Micro s ⟨r, by omega⟩ sha1FnCh (sha1K 0)
  case par1 => exact next_sha1Micro s ⟨20 + r, by omega⟩ sha1FnPar (sha1K 1)
  case maj => exact next_sha1Micro s ⟨40 + r, by omega⟩ sha1FnMaj (sha1K 2)
  case par2 => exact next_sha1Micro s ⟨60 + r, by omega⟩ sha1FnPar (sha1K 3)

end Sys2Proof.Machine
end

section
/-! PROOFS. Family 44_digest_formatter.md: the byte order (R241 to R243), the hex rendering (R244) and the FORMAT
micro-operations. -/

namespace Sys2Proof.Machine

/-! ## The bytes of a value in the native order (44_digest_formatter.md R243) -/

theorem byteOf_toNat {n : Nat} (v : BitVec n) (q : Nat) : (byteOf v q).toNat = v.toNat / 2 ^ (8 * q) % 2 ^ 8 := by
  rw [byteOf, BitVec.extractLsb'_toNat, Nat.shiftRight_eq_div_pow]

/-- Bits inside byte `q` of a value, counted from the value's bit 0. -/
theorem extractLsb'_byteOf {n : Nat} (v : BitVec n) (q : Nat) {start len : Nat} (hin : start + len ≤ 8) :
    (byteOf v q).extractLsb' start len = v.extractLsb' (8 * q + start) len := by
  apply BitVec.eq_of_getLsbD_eq
  intro i hi
  have hbyte : start + i < 8 := by omega
  simp only [byteOf, BitVec.getLsbD_extractLsb', hi, hbyte, decide_true, Bool.true_and, Nat.add_assoc]

theorem leBytes_four {n : Nat} (v : BitVec n) : leBytes v 4 = [byteOf v 0, byteOf v 1, byteOf v 2, byteOf v 3] := rfl

/-- The mux of R243: which byte of a value, counted from the least significant, goes to position `p` of its `count`
bytes. -/
def nativePlace : Alg → Nat → Nat → Nat
  | .md5, _, p => p
  | .sha1, count, p => count - 1 - p

theorem nativeBytes_getElem? {n count p : Nat} (a : Alg) (v : BitVec n) (hp : p < count) :
    (nativeBytes a v count)[p]? = some (byteOf v (nativePlace a count p)) := by
  cases a with
  | md5 => simp [nativeBytes, leBytes, nativePlace, hp]
  | sha1 => simp [nativeBytes, beBytes, nativePlace, hp]

/-- Where each element gives `n` entries, entry `n * k + p` is entry `p` of element `k`. -/
theorem getElem?_flatMap_of_length {α β : Type} {f : α → List β} {n p : Nat} (hf : ∀ x, (f x).length = n)
    (hp : p < n) (l : List α) (k : Nat) : (l.flatMap f)[n * k + p]? = l[k]?.bind fun x => (f x)[p]? := by
  induction l generalizing k with
  | nil => rfl
  | cons x l ih =>
    rw [List.flatMap_cons]
    cases k with
    | zero =>
      rw [Nat.mul_zero, Nat.zero_add, List.getElem?_append_left (by rwa [hf])]
      rfl
    | succ k =>
      have hskip : n * (k + 1) + p - n = n * k + p := by rw [Nat.mul_succ]; omega
      rw [List.getElem?_append_right (by rw [hf, Nat.mul_succ]; omega), hf, hskip, ih]
      rfl

theorem serialize_getElem? {h : Regs} {r p : Nat} {v : Word} (hv : h.get r = some v) (hp : p < 4) :
    (serialize h)[4 * r + p]? = some (byteOf v (nativePlace h.alg 4 p)) := by
  rw [Regs.get] at hv
  rw [serialize, getElem?_flatMap_of_length (fun _ => nativeBytes_length _ _ 4) hp, hv, Option.bind_some,
    nativeBytes_getElem? _ _ hp]

/-! ## The word load gives the bytes back (41_block_load_schedule.md R161, R162) -/

theorem leBytes_le32 (b0 b1 b2 b3 : Byte) : leBytes (le32 b0 b1 b2 b3) 4 = [b0, b1, b2, b3] := by
  have hbyte (q : Nat) (b : Byte)
      (hb : (b0.toNat + 2 ^ 8 * b1.toNat + 2 ^ 16 * b2.toNat + 2 ^ 24 * b3.toNat) / 2 ^ (8 * q) % 2 ^ 8 = b.toNat) :
      byteOf (le32 b0 b1 b2 b3) q = b := by
    rwa [← le32_toNat, ← byteOf_toNat, BitVec.toNat_inj] at hb
  rw [leBytes_four, hbyte 0 b0, hbyte 1 b1, hbyte 2 b2, hbyte 3 b3] <;> omega

theorem beBytes_be32 (b0 b1 b2 b3 : Byte) : beBytes (be32 b0 b1 b2 b3) 4 = [b0, b1, b2, b3] :=
  congrArg List.reverse (leBytes_le32 b3 b2 b1 b0)

theorem getElem?_fourBytes (buf : Block) (j : Fin 16) {p : Nat} (hp : p < 4) :
    [buf[4 * j.val], buf[4 * j.val + 1], buf[4 * j.val + 2], buf[4 * j.val + 3]][p]? =
      some buf[4 * j.val + p] := by
  interval_cases p <;> rfl

/-- A word whose bytes in an algorithm's order are the four at offset 4j has each of them where the mux says. -/
theorem byteOf_of_fourBytes {a : Alg} {w : Word} {buf : Block} {j : Fin 16}
    (hbytes : nativeBytes a w 4 =
      [buf[4 * j.val], buf[4 * j.val + 1], buf[4 * j.val + 2], buf[4 * j.val + 3]])
    {p : Nat} (hp : p < 4) : byteOf w (nativePlace a 4 p) = buf[4 * j.val + p] := by
  apply Option.some_injective
  rw [← nativeBytes_getElem? a w hp, hbytes, getElem?_fourBytes buf j hp]

/-- Settles O37: the three clauses are the mux `nativePlace` at the registers, the schedule words and the counter. -/
theorem oneEndianMuxServesAll : Obligations.OneEndianMuxServesAll := by
  refine ⟨fun h r p v hp hv => ?digest, fun buf j p hp => ⟨?md5, ?sha1⟩, fun a count p hp => ?length⟩
  case digest =>
    rw [serialize_getElem? hv hp]
    cases h.alg <;> rfl
  case md5 => exact byteOf_of_fourBytes (a := .md5) (leBytes_le32 ..) hp
  case sha1 => exact byteOf_of_fourBytes (a := .sha1) (beBytes_be32 ..) hp
  case length =>
    rw [lengthField, Config.lenBytes, nativeBytes_getElem? a count hp]
    cases a <;> rfl

/-! ## The hex rendering (44_digest_formatter.md R244) -/

theorem hexDigits_eq_toList : hexDigits = "0123456789abcdef".toList := by decide

theorem hexDigit_eq_getElem? (v : BitVec 4) : "0123456789abcdef".toList[v.toNat]? = some (hexDigit v) := by
  have hlt : v.toNat < hexDigits.length := v.isLt
  rw [← hexDigits_eq_toList, hexDigit, List.getD_eq_getElem _ _ hlt, List.getElem?_eq_getElem hlt]

theorem hexDigit_mem (v : BitVec 4) : hexDigit v ∈ "0123456789abcdef".toList :=
  List.mem_of_getElem? (hexDigit_eq_getElem? v)

/-- Character `j` renders a nibble of byte `j / 2`, the high one where `j` is even. -/
theorem hexstr_getElem? {bytes : List Byte} {j : Nat} {b : Byte} (hb : bytes[j / 2]? = some b) :
    (hexstr bytes)[j]? = some (hexDigit (b.extractLsb' (4 * (1 - j % 2)) 4)) := by
  have hparity : j % 2 < 2 := Nat.mod_lt _ Nat.two_pos
  have hchar : (hexstr bytes)[j]? = (hexOfByte b)[j % 2]? := by
    conv_lhs => rw [← Nat.div_add_mod j 2]
    rw [hexstr, getElem?_flatMap_of_length (f := hexOfByte) (fun _ => rfl) hparity, hb, Option.bind_some]
  rw [hchar]
  obtain heven | hodd := Nat.mod_two_eq_zero_or_one j
  · rw [heven]
    rfl
  · rw [hodd]
    rfl

theorem highNibble_toNat (b : Byte) : (b.extractLsb' 4 4).toNat = b.toNat / 16 := by
  rw [BitVec.extractLsb'_toNat, Nat.shiftRight_eq_div_pow]
  omega

theorem lowNibble_toNat (b : Byte) : (b.extractLsb' 0 4).toNat = b.toNat % 16 :=
  BitVec.extractLsb'_toNat ..

/-- Settles O39: the even characters render the high nibbles, the odd ones the low nibbles. -/
theorem hexRenderingIsFixedAndLowercase : Obligations.HexRenderingIsFixedAndLowercase := by
  refine ⟨fun bytes k b hb => ⟨?high, ?low⟩, fun bytes => ⟨hexstr_length bytes, fun c hc => ?alphabet⟩,
    fun h => ?lengths⟩
  case high =>
    have hhalf : 2 * k / 2 = k := by omega
    have hparity : 2 * k % 2 = 0 := by omega
    rw [hexstr_getElem? (by rwa [hhalf]), hparity, ← highNibble_toNat, hexDigit_eq_getElem?]
  case low =>
    have hhalf : (2 * k + 1) / 2 = k := by omega
    have hparity : (2 * k + 1) % 2 = 1 := by omega
    rw [hexstr_getElem? (by rwa [hhalf]), hparity, ← lowNibble_toNat, hexDigit_eq_getElem?]
  case alphabet =>
    obtain ⟨b, -, hcb⟩ := List.mem_flatMap.1 hc
    simp only [hexOfByte, List.mem_cons, List.not_mem_nil, or_false] at hcb
    obtain rfl | rfl := hcb <;> exact hexDigit_mem _
  case lengths =>
    rw [hexstr_length, serialize_length]
    cases h.alg <;> exact ⟨rfl, rfl⟩

/-! ## FORMAT (44_digest_formatter.md R241, R242) -/

theorem Engine.storeDigest_digest_read (e : Engine) (r : Nat) (a : Alg) (v : Word) (k : Nat) :
    (e.storeDigest r (nativeBytes a v 4)).digest.read k =
      if 4 * r ≤ k ∧ k < 4 * r + 4 then some (byteOf v (nativePlace a 4 (k - 4 * r))) else e.digest.read k := by
  rw [Engine.storeDigest, Memory.read_writeList, nativeBytes_length]
  split_ifs with hin
  · exact nativeBytes_getElem? a v (by omega)
  · rfl

theorem Engine.storeDigest_hex_read (e : Engine) (r : Nat) (a : Alg) (v : Word) (k : Nat) :
    (e.storeDigest r (nativeBytes a v 4)).hex.read k =
      if 8 * r ≤ k ∧ k < 8 * r + 8 then
        some (hexDigit (v.extractLsb' (8 * nativePlace a 4 ((k - 8 * r) / 2) + 4 * (1 - k % 2)) 4))
      else e.hex.read k := by
  rw [Engine.storeDigest, Memory.read_writeList, hexstr_length, nativeBytes_length]
  split_ifs with hin
  · have hparity : (k - 8 * r) % 2 = k % 2 := by omega
    rw [hexstr_getElem? (nativeBytes_getElem? a v (by omega)), hparity,
      extractLsb'_byteOf _ _ (by omega)]
  · rfl

theorem Regs.exists_get {h : Regs} {r : Nat} (hr : r < Config.nreg h.alg) : ∃ v, h.get r = some v :=
  ⟨_, List.getElem?_eq_getElem (by rwa [Regs.words_length])⟩

/-- Registers A to D exist for either algorithm, register E for SHA1 (10_state.md R31, R32). -/
theorem lt_nreg_of_exists {a : Alg} {r : Fin 5} (h : r.val < 4 ∨ a = .sha1) : r.val < Config.nreg a := by
  obtain hfour | rfl := h
  · exact hfour.trans_le (four_le_nreg a)
  · exact r.isLt

/-- Settles O32: what the two stores read after `storeDigest`, in the byte order of MD5. -/
theorem formatMd5StoresOneRegister : Obligations.FormatMd5StoresOneRegister := by
  intro r s
  obtain ⟨v, hv⟩ := Regs.exists_get (r.isLt.trans_le (four_le_nreg s.eng.h.alg))
  refine ⟨v, _, _, hv, ?_, s.eng.storeDigest_digest_read r .md5 v, s.eng.storeDigest_hex_read r .md5 v⟩
  simp only [exec, execFormatMd5, hv]
  rfl

/-- Settles O33: the premise says that the register exists; the byte order is that of SHA1. -/
theorem formatSha1StoresOneRegister : Obligations.FormatSha1StoresOneRegister := by
  intro r s hexists
  obtain ⟨v, hv⟩ := Regs.exists_get (lt_nreg_of_exists hexists)
  refine ⟨v, _, _, hv, ?_, s.eng.storeDigest_digest_read r .sha1 v, s.eng.storeDigest_hex_read r .sha1 v⟩
  simp only [exec, execFormatSha1, hv]
  rfl

end Sys2Proof.Machine
end
section
/-! PROOFS. Family 45_driver_protocol.md: the Stream Driver (R263) against the Slice Driver (R261), and what a read
error leaves behind (R267). -/

namespace Sys2Proof.Machine

/-! ## The loop of the Stream Driver (45_driver_protocol.md R263) -/

section StreamLoop

variable (s : State) (reads : List (Option (List Byte)))

theorem streamLoop_readError : streamLoop (none :: reads) s = exec .abort s := rfl

/-- A full read asks for the next one. -/
theorem streamLoop_full_read {chunk : List Byte} (h : chunk.length = 64) :
    streamLoop (some chunk :: reads) s = andThen (exec (.absorb chunk) s) (streamLoop reads) := by
  simp only [streamLoop, h, lt_irrefl, if_false]

/-- A short read ends the stream, whatever the source would deliver behind it. -/
theorem streamLoop_short_read {chunk : List Byte} (h : chunk.length < 64) :
    streamLoop (some chunk :: reads) s = andThen (exec (.absorb chunk) s) finish := by
  simp only [streamLoop, h, if_true]

/-- The loop absorbs full reads as the Slice Driver absorbs its complete chunks. -/
theorem streamLoop_full_reads {full : List (List Byte)} (h : ∀ block ∈ full, block.length = 64) :
    streamLoop (full.map some ++ reads) s = andThen (absorbAll full s) (streamLoop reads) := by
  induction full generalizing s with
  | nil => rfl
  | cons block rest ih =>
    obtain ⟨hblock, hrest⟩ := List.forall_mem_cons.1 h
    rw [List.map_cons, List.cons_append, streamLoop_full_read _ _ hblock, absorbAll, andThen_assoc]
    exact congrArg (andThen _) (funext fun t => ih t hrest)

end StreamLoop

/-! ## The reads of the Slice Driver (45_driver_protocol.md R261, R266) -/

theorem completeChunk_length {m block : List Byte}
    (h : block ∈ (List.range (m.length / 64)).map fun k => (m.drop (64 * k)).take 64) : block.length = 64 := by
  obtain ⟨k, hk, rfl⟩ := List.mem_map.1 h
  have hcount := List.mem_range.1 hk
  rw [List.length_take, List.length_drop]
  omega

theorem lastChunk_length (m : List Byte) : (m.drop (64 * (m.length / 64))).length < 64 := by
  rw [List.length_drop]
  omega

/-- The complete chunks are full reads and the last one is a short read, so the loop stops where the Slice Driver
does. -/
theorem streamLoop_sliceBlocks (m : List Byte) (later : List (Option (List Byte))) (s : State) :
    streamLoop ((sliceBlocks m).map some ++ later) s = andThen (absorbAll (sliceBlocks m) s) finish := by
  rw [sliceBlocks, List.map_append, List.append_assoc, streamLoop_full_reads _ _ fun _ => completeChunk_length,
    absorbAll_append, andThen_assoc]
  refine congrArg (andThen _) (funext fun t => ?_)
  rw [absorbAll_singleton]
  exact streamLoop_short_read t later (lastChunk_length m)

/-- Settles O54: behind the same INIT the two loops agree. -/
theorem streamDriverAgreesWithSliceDriver : Obligations.StreamDriverAgreesWithSliceDriver := by
  intro a m later s
  exact congrArg (andThen _) (funext (streamLoop_sliceBlocks m later))

/-! ## A read error (45_driver_protocol.md R263, R267) -/

theorem Engine.abandon_of_awaitingData {e : Engine} (h : e.phase = .awaitingData) :
    e.abandon = e.raise .upstreamAbort := by
  rw [Engine.abandon, h]

theorem length_flatten_full {full : List (List Byte)} (h : ∀ block ∈ full, block.length = 64) :
    full.flatten.length = 64 * full.length := by
  rw [List.length_flatten, List.sum_eq_card_nsmul _ 64 (by simpa using h), List.length_map, smul_eq_mul, mul_comm]

/-- From any state, full reads that the counter can hold leave the engine of the Stream Driver in AWAITING_DATA,
ready for the next read. -/
theorem streamDriver_full_reads {full : List (List Byte)} (s : State) (a : Alg) (reads : List (Option (List Byte)))
    (hfull : ∀ block ∈ full, block.length = 64) (hroom : 512 * full.length ≤ 2 ^ 64 - 1) :
    ∃ e : Engine, e.phase = .awaitingData ∧
      streamDriver a (full.map some ++ reads) s = streamLoop reads (s.withEng e) := by
  have hinit : exec (.init a) s = .next (s.withEng (s.eng.create a)) := rfl
  have hbits : 8 * ([] ++ full.flatten).length ≤ 2 ^ 64 - 1 := by
    rw [List.nil_append, length_flatten_full hfull]
    omega
  obtain ⟨e, habsorb, hphase, -⟩ := absorbAll_full (s := s.withEng (s.eng.create a))
    (s.eng.create_digesting a) rfl hfull hbits
  refine ⟨e, hphase, ?_⟩
  rw [streamDriver, hinit, andThen_next, streamLoop_full_reads _ _ hfull, habsorb, andThen_next]
  rfl

/-- Settles O55: the full reads leave a computation in AWAITING_DATA, which the ABORT of the read error ends by
fault entry. -/
theorem readErrorLeavesNoDigest : Obligations.ReadErrorLeavesNoDigest := by
  intro a full later s hfull hroom
  obtain ⟨e, hphase, hrun⟩ := streamDriver_full_reads s a (none :: later) hfull hroom
  have habort : exec .abort (s.withEng e) = .next (s.withEng (e.raise .upstreamAbort)) := by
    rw [← Engine.abandon_of_awaitingData hphase]
    rfl
  exact ⟨_, hrun.trans ((streamLoop_readError _ later).trans habort), rfl, rfl, rfl, rfl⟩

end Sys2Proof.Machine
end
section
/-! PROOFS. Family 60_exceptions.md: no step stops the machine but for what cannot be formed (R289, R294), the
instances and their indices (R299), ABORT (R287) and the phase FAULTED (R291, R292). -/

namespace Sys2Proof.Machine

/-! ## Steps from rest (60_exceptions.md R289, R294) -/

theorem bare_ne_noCoordinate (i : Instr) (payload : List Byte) : bare i payload ≠ .noCoordinate := by
  rw [bare]
  split_ifs <;> simp

/-- A coordinate is no answer to a command word. -/
theorem decodeCommand_ne_noCoordinate (word : BitVec 16) (payload : List Byte) :
    decodeCommand word payload ≠ .noCoordinate := by
  rw [decodeCommand]
  split
  · simp
  split
  · split_ifs <;> simp [bare_ne_noCoordinate]
  · split_ifs <;> simp
  · split_ifs <;> simp [bare_ne_noCoordinate]
  · simp

/-- What cannot be formed as a transaction to an existing engine is a payload of the wrong length
(30_encoding.md R100). -/
theorem decodeCommand_of_stop {t : State} {word : BitVec 16} {payload : List Byte} {r : Refusal}
    (h : fetchCommand t word payload = .stop r) : decodeCommand word payload = .payloadMismatch := by
  cases hdecode : decodeCommand word payload with
  | instr i | reserved => simp [fetchCommand, hdecode] at h
  | payloadMismatch => rfl
  | noCoordinate => exact absurd hdecode (decodeCommand_ne_noCoordinate word payload)

theorem step_of_no_input {s : State} (hrest : s.eng.useq = none) (hpending : s.pending = []) :
    step s = .next s := by
  simp only [step, State.fetch_of_rest hrest, State.fetchInput, hpending]

theorem step_of_resetEvent {s : State} {rest : List Input} (hrest : s.eng.useq = none)
    (hpending : s.pending = .reset :: rest) : step s = .next (State.hardReset { s with pending := rest }) := by
  simp only [step, State.fetch_of_rest hrest, State.fetchInput, hpending]

/-- Settles O9: by the oldest input; a command to an existing engine acts on it or cannot be formed. -/
theorem stepAtRestGoesOn : Obligations.StepAtRestGoesOn := by
  intro s hs
  have goesOn {t : State} (h : step s = .next t) : ∃ t, step s = .next t ∧ t.AtRest :=
    ⟨t, h, step_keeps_atRest hs h⟩
  cases hpending : s.pending with
  | nil => exact .inl (goesOn (step_of_no_input hs.eng hpending))
  | cons input rest =>
    cases input with
    | reset => exact .inl (goesOn (step_of_resetEvent hs.eng hpending))
    | command k word payload =>
      by_cases hk : k < s.engines.length
      · obtain ⟨f, hf⟩ | hstop := actsAs_or_stops word payload
        · obtain ⟨t, hstep, -⟩ := hf s k rest hs.eng hpending hk
          exact .inl (goesOn hstep)
        · exact .inr ⟨k, word, payload, rest, rfl, .inr (decodeCommand_of_stop (hstop s))⟩
      · exact .inr ⟨k, word, payload, rest, rfl, .inl (not_lt.1 hk)⟩

/-! ## The indices of the instances (60_exceptions.md R299) -/

theorem Engine.absorbWith_inst (e : Engine) (count : BitVec 64) (buf : Block) (next : Phase) :
    (e.absorbWith count buf next).inst = e.inst := by
  obtain ⟨-, -, -, -, -, -, hinst, -⟩ := e.absorbWith_fields count buf next
  exact hinst

theorem Engine.shortBody_inst (e : Engine) (block : List Byte) : (e.shortBody block).inst = e.inst := by
  unfold Engine.shortBody
  split <;> exact e.absorbWith_inst ..

/-- Whatever becomes of an engine, it keeps its index. -/
theorem Engine.Becomes.inst {e e' : Engine} (h : e.Becomes e') : e'.inst = e.inst := by
  cases h with
  | same | created | raised | reset => rfl
  | absorbed block => exact e.absorbWith_inst ..

theorem Engine.gated_inst (e : Engine) (n : Nat) {body : Engine → Engine} (h : (body e).inst = e.inst) :
    (e.gated n body).inst = e.inst := by
  obtain ⟨-, hgated⟩ | ⟨-, c, -, -, hgated⟩ | ⟨-, hgated⟩ := e.gated_cases n body
  · rw [hgated]
  · rw [hgated, Engine.raise_inst]
  · rw [hgated, h]

theorem Engine.sha1Micro_inst (e : Engine) (i : Fin 80) (fn : Word → Word → Word → Word) (k : Word) :
    (e.sha1Micro i fn k).inst = e.inst := rfl

/-- No instruction changes the index of the addressed engine. -/
theorem exec_keeps_inst {i : Instr} {s t : State} (h : exec i s = .next t) : t.eng.inst = s.eng.inst := by
  cases i
  case init a => exact ((FromHost.init a).becomes h).inst
  case absorb block => exact ((FromHost.absorb block).becomes h).inst
  case abort => exact (FromHost.abort.becomes h).inst
  case absorbFull block | absorbSpill block =>
    cases h
    exact s.eng.gated_inst _ (Engine.absorbWith_inst ..)
  case absorbFinal block =>
    cases h
    exact s.eng.gated_inst _ (s.eng.shortBody_inst block)
  case absorbLength =>
    cases h
    exact s.eng.gated_inst _ (s.eng.shortBody_inst [])
  case feedfwdMd5 r | feedfwdSha1 r | formatMd5 r | formatSha1 r =>
    simp only [exec, execFeedfwdMd5, execFeedfwdSha1, execFormatMd5, execFormatSha1] at h
    split at h <;> cases h
    rfl
  case sha1Ch | sha1Par1 | sha1Maj | sha1Par2 =>
    cases h
    exact Engine.sha1Micro_inst ..
  all_goals
    cases h
    rfl

@[simp] theorem Engine.goTo_inst (e : Engine) (a : Alg) (st : BitVec 3) (idx : Nat) :
    (e.goTo a st idx).inst = e.inst := rfl

theorem Engine.afterCount_inst (e : Engine) (a : Alg) : (e.afterCount a).inst = e.inst := by
  rw [Engine.afterCount]
  split_ifs <;> rw [Engine.goTo_inst]

theorem Engine.afterFeedfwd_inst (e : Engine) (a : Alg) : (e.afterFeedfwd a).inst = e.inst := by
  unfold Engine.afterFeedfwd
  dsimp only
  split_ifs <;> rfl

theorem Engine.advance_inst (e : Engine) (c : BitVec 11) : (e.advance c).inst = e.inst := by
  unfold Engine.advance
  dsimp only
  split_ifs
  case pos => rfl
  case neg =>
    split
    case h_1 => exact e.afterCount_inst _
    case h_7 => exact e.afterFeedfwd_inst _
    all_goals rfl

/-! ## The instances of a step -/

/-- The indices do not change when the addressed engine is replaced by one of the same index. -/
theorem State.withEng_insts {s : State} {e : Engine} (h : e.inst = s.eng.inst) :
    (s.withEng e).engines.map Engine.inst = s.engines.map Engine.inst := by
  simp [State.engines, h]

theorem exec_keeps_insts {i : Instr} {s t : State} (h : exec i s = .next t) :
    t.engines.map Engine.inst = s.engines.map Engine.inst := by
  rw [exec_next_frame h]
  exact State.withEng_insts (exec_keeps_inst h)

/-- The machine that has taken an input has the same engines. -/
theorem State.fetch_engines {s u : State}
    (h : s.fetch = .resetEvent u ∨ s.fetch = .reservedWord u ∨ ∃ i, s.fetch = .command i u) :
    u.engines = s.engines := by
  cases hrest : s.eng.useq with
  | none =>
    rw [State.fetch_of_rest hrest] at h
    obtain hidle | ⟨r, hstop⟩ | ⟨v, hengines, hreset | hword | ⟨i, -, hcommand⟩⟩ := s.fetchInput_cases
    · simp [hidle] at h
    · simp [hstop] at h
    · obtain rfl : v = u := by simpa [hreset] using h
      exact hengines
    · obtain rfl : v = u := by simpa [hword] using h
      exact hengines
    · obtain rfl : v = u := by simpa [hcommand] using h
      exact hengines
  | some c =>
    simp only [State.fetch, hrest] at h
    cases hdecode : decodeCoord c <;> simp [hdecode] at h

/-- Every step, inside an ABSORB or not, keeps the list of indices. -/
theorem step_keeps_insts {s t : State} (h : step s = .next t) :
    t.engines.map Engine.inst = s.engines.map Engine.inst := by
  obtain ⟨c, i, u, -, hexec, rfl⟩ | ⟨i, u, hcommand, hexec⟩ | ⟨u, hword, rfl⟩ | ⟨u, hreset, rfl⟩ | ⟨-, rfl⟩ :=
    step_cases h
  · rw [State.withEng_insts (u.eng.advance_inst c), exec_keeps_insts hexec]
  · rw [exec_keeps_insts hexec, State.fetch_engines (.inr (.inr ⟨i, hcommand⟩))]
  · rw [State.withEng_insts u.eng.becomes_badCommand.inst, State.fetch_engines (.inr (.inl hword))]
  · rw [State.hardReset_engines, List.map_map, ← State.fetch_engines (.inl hreset)]
    rfl
  · rfl

/-- Settles O47: both parts read the list of indices. -/
theorem stepKeepsTheInstances : Obligations.StepKeepsTheInstances := by
  intro s t h
  have hinsts := step_keeps_insts h
  have hlength : t.engines.length = s.engines.length := by
    simpa only [List.length_map] using congrArg List.length hinsts
  refine ⟨hlength, fun hindexed => ?_⟩
  rwa [State.Indexed, hinsts, hlength]

/-! ## ABORT (60_exceptions.md R287) -/

theorem Engine.abandon_of_nothing_to_abandon {e : Engine} (h : e.phase = .idle ∨ e.phase = .faulted) :
    e.abandon = e := by
  obtain h | h := h <;> rw [Engine.abandon, h]

theorem Engine.abandon_of_computation {e : Engine}
    (h : e.phase = .awaitingData ∨ e.phase = .awaitingLengthBlock ∨ e.phase = .done) :
    e.abandon = e.raise .upstreamAbort := by
  obtain h | h | h := h <;> rw [Engine.abandon, h]

theorem exec_abort_of_nothing_to_abandon {s : State} (h : s.eng.phase = .idle ∨ s.eng.phase = .faulted) :
    exec .abort s = .next s := by
  rw [exec, execAbort, Engine.abandon_of_nothing_to_abandon h, State.withEng_self]

/-- Settles O17. -/
theorem abortAbandonsTheComputation : Obligations.AbortAbandonsTheComputation := by
  intro s
  refine ⟨exec_abort_of_nothing_to_abandon, fun hphase => ⟨_, ?_, faultEntry_raise .upstreamAbort s⟩⟩
  rw [exec, execAbort, Engine.abandon_of_computation hphase]

/-! ## FAULTED (60_exceptions.md R291, R292) -/

/-- The first admission check ignores an ABSORB in FAULTED, whatever its body would do. -/
theorem State.withEng_gated_of_faulted {s : State} (h : s.eng.phase = .faulted) (n : Nat)
    (body : Engine → Engine) : s.withEng (s.eng.gated n body) = s := by
  rw [Engine.gated, Engine.admission, if_pos h, State.withEng_self]

/-- The addressed engine is the one whose index is the number of engines below it. -/
theorem State.select_below (s : State) : s.select s.below.length = some s := by
  simp [State.select, State.engines]

/-- A reserved word to an engine in FAULTED is taken and does nothing. -/
theorem step_of_reserved_of_faulted {s : State} {word : BitVec 16} {payload : List Byte}
    (hphase : s.eng.phase = .faulted) (hrest : s.eng.useq = none)
    (hreserved : decodeCommand word payload = .reserved) :
    step { s with pending := .command s.below.length word payload :: s.pending } = .next s := by
  obtain ⟨-, hstep⟩ := reservedWordsRaiseBadCommand
  obtain ⟨hignored, -⟩ := hstep { s with pending := .command s.below.length word payload :: s.pending } s
    s.below.length word payload s.pending hrest rfl s.select_below hreserved
  exact hignored hphase

/-- Settles O19. -/
theorem faultedIsSticky : Obligations.FaultedIsSticky := by
  intro s hphase
  have hgated (n : Nat) (body : Engine → Engine) :
      Host.Outcome.next (s.withEng (s.eng.gated n body)) = (.next s : Result) :=
    congrArg _ (State.withEng_gated_of_faulted hphase n body)
  exact ⟨fun block => ⟨hgated .., hgated .., hgated .., hgated ..⟩, hgated ..,
    exec_abort_of_nothing_to_abandon (.inr hphase),
    fun word payload hrest hreserved => step_of_reserved_of_faulted hphase hrest hreserved,
    fun a => ⟨s.withEng (s.eng.create a), rfl, rfl, rfl⟩⟩

end Sys2Proof.Machine
end
section
/-! PROOFS. Family 70_reset_and_hazards.md: the hardware reset event and the step without input (R320, R323), and
what the bytes of a block do not decide (R346). -/

namespace Sys2Proof.Machine

/-! ## The message bytes and the course of an ABSORB (70_reset_and_hazards.md R346) -/

/-- The admission checks read no more of a block than its length: two bodies behind the same checks differ only
where both are run. -/
theorem Engine.gated_eq_or_accepts (e : Engine) (n : Nat) (body body' : Engine → Engine) :
    e.gated n body = e.gated n body' ∨
      (e.Accepts n ∧ e.gated n body = body e ∧ e.gated n body' = body' e) := by
  unfold Engine.gated
  cases hadmission : e.admission n with
  | ignored | raises c => exact .inl rfl
  | admitted => exact .inr ⟨(e.admission_eq_admitted n).1 hadmission, rfl, rfl⟩

theorem Memory.ofList_ne_nil {α : Type} {values : List α} (h : values ≠ []) : Memory.ofList values ≠ [] := by
  intro hempty
  have hread := Memory.read_ofList values 0
  rw [hempty, List.getElem?_eq_getElem (List.length_pos_iff.2 h)] at hread
  cases hread

theorem serialize_ne_nil (h : Regs) : serialize h ≠ [] := by
  have hlength := serialize_length h
  have hnreg := four_le_nreg h.alg
  exact List.ne_nil_of_length_pos (by omega)

/-- Whether a digest stands after an accepted ABSORB depends on the length of its block alone: step 6 stores one
exactly where the message ends (40_absorb_padding.md R142). -/
theorem Engine.Accepts.absorbBody_digest_eq_nil {e : Engine} {block : List Byte} (h : e.Accepts block.length) :
    (e.absorbBody block).digest = [] ↔ 55 < block.length ∧ e.digest = [] := by
  obtain ⟨-, -, -, -, -, hdigest, -⟩ := e.absorbBody_fields block
  have hdone : (e.buffered block).work.next = .done ↔ block.length ≤ 55 := h.next_eq_done _
  simp only [hdigest, hdone]
  split_ifs with hshort
  · simp only [Memory.ofList_ne_nil (serialize_ne_nil _), not_lt.2 hshort, false_and]
  · simp only [not_le.1 hshort, true_and]

theorem Engine.absorbBody_bitcount (e : Engine) (block : List Byte) :
    (e.absorbBody block).bitcount = countBits e.bitcount block.length := by
  obtain ⟨-, -, hcount, -⟩ := e.absorbBody_fields block
  exact hcount

theorem Engine.absorbBody_useq (e : Engine) (block : List Byte) : (e.absorbBody block).useq = none := by
  obtain ⟨-, -, -, huseq, -⟩ := e.absorbBody_fields block
  exact huseq

/-- Settles O21: the two runs are the same one unless both blocks are accepted, and then every field in question
is a function of the length. -/
theorem messageBytesDoNotSteer : Obligations.MessageBytesDoNotSteer := by
  intro b1 b2 s t1 t2 hlength hexec1 hexec2
  cases hexec1
  cases hexec2
  simp only [State.withEng_eng, ← hlength]
  obtain hsame | ⟨haccepts, hrun1, hrun2⟩ :=
    s.eng.gated_eq_or_accepts b1.length (Engine.absorbBody b1) (Engine.absorbBody b2)
  · rw [hsame]
    exact ⟨rfl, rfl, fun _ => rfl, rfl, rfl, .rfl⟩
  · have haccepts2 : s.eng.Accepts b2.length := hlength ▸ haccepts
    rw [hrun1, hrun2]
    refine ⟨?_, ?_, fun _ => ?_, ?_, ?_, ?_⟩
    · rw [haccepts.absorbBody_phase, haccepts2.absorbBody_phase, hlength]
    · rw [Engine.absorbBody_fault, Engine.absorbBody_fault]
    · rw [Engine.absorbBody_bitcount, Engine.absorbBody_bitcount, hlength]
    · rw [Engine.absorbBody_trace, Engine.absorbBody_trace, List.length_append, List.length_append,
        List.length_singleton, List.length_singleton]
    · rw [Engine.absorbBody_useq, Engine.absorbBody_useq]
    · rw [haccepts.absorbBody_digest_eq_nil, haccepts2.absorbBody_digest_eq_nil, hlength]

/-! ## The hardware reset event (70_reset_and_hazards.md R320, R323) -/

/-- Settles O7. -/
theorem resetEventAndIdleStep : Obligations.ResetEventAndIdleStep :=
  ⟨fun s rest hrest hpending =>
    ⟨_, step_of_resetEvent hrest hpending, rfl, State.hardReset_engines { s with pending := rest }⟩,
  fun _ => step_of_no_input⟩

end Sys2Proof.Machine
end
